-- ==== Sys2Proof/Word.lean ====
section
/-! DEFINITION. The word types of the Tarkev IB16: bytes, 40-bit addresses, 32-bit count words, the 64-bit
time base, and the numbered feeds and memory-side tags (00_scope, Conventions). -/

namespace Sys2Proof

/-- One byte. -/
abbrev Byte := BitVec 8

/-- A 40-bit byte address (00_scope, Conventions). -/
abbrev Addr := BitVec 40

/-- A count word: a free-running 32-bit count that wraps modulo 2^32 (00_scope, Conventions). -/
abbrev Count := BitVec 32

/-- A value of the 64-bit microsecond time base (R143). -/
abbrev Time := BitVec 64

/-- One of the sixteen feeds, 0 to 15. -/
abbrev FeedId := Fin 16

/-- One of the 128 memory-side tags (R140). -/
abbrev Tag := Fin 128

/-- The tag a fabric master attaches to a request. The manual gives it no width; it is carried, never
computed with. DESIGN CHOICE (log 12): a natural number. -/
abbrev MasterTag := Nat

end Sys2Proof
end

