-- ==== Sys2Proof/Syntax.lean ====
section
/-! DEFINITION. The commands of the block: one constructor per row of spec/opcode_table.json, each a whole
and indivisible step (95_what_each_step_holds), with what the outside world hands to the step as operands. -/

namespace Sys2Proof

/-- One byte lane of a write on the fabric side: its data and its enable (R130). -/
structure Lane where
  data : Byte
  enable : Bool
  deriving DecidableEq, Repr

/-- What a fabric request asks for: a read of so many bytes, or a write of so many byte lanes (R130). -/
inductive Body where
  | read (length : Nat)
  | write (lanes : List Lane)
  deriving DecidableEq, Repr

/-- The number of bytes a request asks for. -/
def Body.length : Body → Nat
  | .read n => n
  | .write lanes => lanes.length

/-- A request the fabric presents (R130). -/
structure FabricRequest where
  addr : Addr
  body : Body
  master : MasterTag
  deriving DecidableEq, Repr

/-- The status of an answer from memory (R141, R162). -/
inductive AnswerStatus where
  | ok
  | error
  deriving DecidableEq, Repr

/-- An answer from memory to a forwarded request: a write answer carries a status, a read answer carries
data and a status (R141). -/
inductive Answer where
  | write (status : AnswerStatus)
  | read (data : List Byte) (status : AnswerStatus)
  deriving DecidableEq, Repr

/-- The steps of the part, in the order of spec/opcode_table.json. The command steps (`setCatalogue` to
`commandDiscard`) act on the captured command at the head of the command queue, whose 64 bytes hold
their parameters (R174). -/
inductive Instr where
  | powerOnReset (straps : BitVec 8)
  | fabricRequestAccept (request : FabricRequest)
  | forwardIssue
  | insertionIssue
  | forwardAnswer (tag : Tag) (answer : Answer)
  | insertionAnswer (tag : Tag) (status : AnswerStatus)
  | orphanedAnswer (tag : Tag) (status : AnswerStatus)
  | parseTapEntry
  | lossTimeoutExpiry (feed : FeedId)
  | flushTimeoutExpiry
  | batchStart
  | noticeEntryMake
  | rowPartQueue (feed : FeedId)
  | setCatalogue
  | defineFeed
  | startFeed
  | suspendFeed
  | resumeFeed
  | retireFeedAtFrameEnd
  | retireFeedNow
  | restartFeed
  | reportFeed
  | resetEngine
  | unknownCommand
  | commandDiscard
  | reportNoticeStage
  | drainExit (feed : FeedId)
  | timeBaseTick
  deriving DecidableEq, Repr

end Sys2Proof
end

