-- ==== Sys2Proof/Config.lean ====
section
/-! DEFINITION. The fixed sizes of the part: queue capacities, saturation limits and offsets of the control
block, each a number the manual states. -/

namespace Sys2Proof.Config

/-- Requests in the forward queue (R136). -/
abbrev forwardCapacity : Nat := 32
/-- Entries in the tap queue (R144). -/
abbrev tapCapacity : Nat := 64
/-- Commands in the command queue (R173). -/
abbrev commandCapacity : Nat := 8
/-- Notices in the notice staging queue (R180). -/
abbrev noticeCapacity : Nat := 8
/-- Records in the index staging queue (R94). -/
abbrev stagingCapacity : Nat := 32
/-- Records in a feed's frame record list (R28). -/
abbrev recordCapacity : Nat := 4
/-- Index records in one batch (R98). -/
abbrev batchLimit : Nat := 16
/-- Slots of the notice ring (R181). -/
abbrev noticeSlots : Nat := 64
/-- Forward issues made while a part's write waits, before insertion is granted (R159). -/
abbrev creditLimit : Nat := 8
/-- Attempts of an insertion entry (R164). -/
abbrev attemptLimit : Nat := 4
/-- Bytes of one row buffer (R68). -/
abbrev bufferBytes : Nat := 4096
/-- Where a status counter stays (00_scope, Status counters). -/
abbrev counterLimit : Nat := 4294967295
/-- The 4 KiB block of the request shape (R132). -/
abbrev blockBytes : Nat := 4096
/-- The longest payload of a valid header (R3). -/
abbrev payloadLimit : Nat := 1048576

/-- Bytes of the control block (R170). -/
abbrev controlBytes : Nat := 65536
/-- Bytes of the command ring, at the base of the control block (R170). -/
abbrev commandRingBytes : Nat := 2048
/-- Offset of the notice consumer word (R170). -/
abbrev noticeConsumerOffset : Nat := 0x0800
/-- Offset of the catalogue consumer word (R170). -/
abbrev catalogueConsumerOffset : Nat := 0x0804
/-- Offset of feed 0's release word (R170). -/
abbrev releaseOffset : Nat := 0x0840
/-- Offset of the notice ring (R170). -/
abbrev noticeRingOffset : Nat := 0x1000
/-- Offset of the notice producer word (R170). -/
abbrev producerOffset : Nat := 0x1800
/-- Offset of feed 0's publish word (R170). -/
abbrev publishOffset : Nat := 0x1840
/-- Offset of feed 0's status record (R170). -/
abbrev statusOffset : Nat := 0x2000

end Sys2Proof.Config
end

