-- ==== Sys2Proof/Machine/Bytes.lean ====
section
/-! DEFINITION. Byte order, bit fields, saturation and byte ranges: the helpers every block uses. Multi-byte
fields in memory are little-endian (00_scope, Byte order). -/

namespace Sys2Proof.Machine

/-- The value of bytes held least significant byte first. -/
def leNat : List Byte → Nat
  | [] => 0
  | b :: rest => b.toNat + 256 * leNat rest

/-- `n` bytes of a value, least significant byte first. -/
def leBytes : Nat → Nat → List Byte
  | 0, _ => []
  | n + 1, v => BitVec.ofNat 8 v :: leBytes n (v / 256)

/-- The `size` bytes of a record from `offset`. -/
def slice (record : List Byte) (offset size : Nat) : List Byte := (record.drop offset).take size

/-- The value of a record's field at `offset`, `size` bytes wide. -/
def fieldAt (record : List Byte) (offset size : Nat) : Nat := leNat (slice record offset size)

/-- `n` zero bytes. -/
def zeros (n : Nat) : List Byte := List.replicate n 0

/-- The 16-bit little-endian words of a list of bytes. -/
def words16 : List Byte → List Nat
  | a :: b :: rest => (a.toNat + 256 * b.toNat) :: words16 rest
  | _ => []

/-- The 32-bit little-endian words of a list of bytes. -/
def words32 : List Byte → List Nat
  | a :: b :: c :: d :: rest => leNat [a, b, c, d] :: words32 rest
  | _ => []

/-- The signed value of a word's low 24 bits, taken with the sign of bit 23 (R5). -/
def signed24 (word : Nat) : Int := (BitVec.ofNat 24 word).toInt

/-- An addition that stays at `limit` (00_scope, Status counters). -/
abbrev satAdd (limit x k : Nat) : Nat := min limit (x + k)

/-- `n` rounded up to a multiple of 32. -/
abbrev roundUp32 (n : Nat) : Nat := (n + 31) / 32 * 32

/-- Two byte ranges, each a first address and a length, share at least one byte (R137). -/
def rangesShare (a la b lb : Nat) : Bool :=
  decide (0 < la) && decide (0 < lb) && decide (a < b + lb) && decide (b < a + la)

/-- The 32-byte positions of a tap entry, in address order (R13). -/
def positions (data : List Byte) : List (List Byte) :=
  (List.range (data.length / 32)).map fun i => slice data (32 * i) 32

end Sys2Proof.Machine
end

