-- ==== Sys2Proof/Machine/State.lean ====
section
/-! DEFINITION. Every piece of state the manual gives the part, block by block (00_scope, Block overview), as
plain data, and its value after reset. INVENTORY.md lists each with its rule. -/

namespace Sys2Proof.Machine

/-! ### Feed lifecycle (R107 to R110, R126, R128) -/

/-- The six states of a feed (R108). -/
inductive FeedState where
  | vacant | defined | active | suspended | draining | faulted
  deriving DecidableEq, Repr

/-- Whether a running feed is receiving data (R115). -/
inductive Presence where
  | awaiting | present | absent
  deriving DecidableEq, Repr

/-- The causes of a feed fault (R124). -/
inductive FaultCause where
  | browseWriteFailed | publishWriteFailed | noLock
  deriving DecidableEq, Repr

/-- The fault word: the first cause, and whether the further-causes set holds BROWSE WRITE FAILED, the
one cause it can come to hold (R126). -/
structure FaultWord where
  first : FaultCause
  furtherBrowse : Bool
  deriving DecidableEq, Repr

/-- The parameters of DEFINE FEED (R110). Sizes, counts and timeouts are in bytes, slots and milliseconds. -/
structure FeedDef where
  tag : Byte
  ingestBase : Addr
  ingestSize : Nat
  browseBase : Addr
  slotSize : Nat
  slotCount : Nat
  decimation : Nat
  legalClamp : Bool
  rateCode : Nat
  priority : Nat
  lossTimeout : Nat
  deriving DecidableEq, Repr

/-- The drain record of a DRAINING feed (R107, R119). -/
structure DrainRecord where
  serial : BitVec 16
  discarded : Nat
  deriving DecidableEq, Repr

/-- The ten status counters, each saturating at 4,294,967,295 (R128). -/
structure Counters where
  framesOpened : Nat
  framesPublished : Nat
  browseAbsent : Nat
  breaks : Nat
  headerRejects : Nat
  tapMisses : Nat
  strayPackets : Nat
  sequenceGaps : Nat
  untrackedFrames : Nat
  badReleases : Nat
  deriving DecidableEq, Repr

/-- What the lifecycle holds for one feed (R107). -/
structure Lifecycle where
  state : FeedState
  defn : Option FeedDef
  presence : Presence
  lastArrival : Time
  fault : Option FaultWord
  drain : Option DrainRecord
  counters : Counters
  deriving DecidableEq, Repr

/-! ### Window table (R133) -/

/-- An ingest window: an address lies in it when the address AND the mask equals the base (R134). -/
structure IngestWindow where
  base : Addr
  mask : Addr
  deriving DecidableEq, Repr

/-- A region given by its base and its limit, the address of its last byte (R133). -/
structure Region where
  base : Addr
  limit : Addr
  deriving DecidableEq, Repr

/-! ### Feed parser (R6) -/

/-- The parse states (R6). -/
inductive ParseState where
  | idle | hunt | atHeader | inPayload
  deriving DecidableEq, Repr

/-- The packet kinds (R2). -/
inductive PacketKind where
  | opening | lines | audio | close | fill
  deriving DecidableEq, Repr

/-- The disposition of a payload with the positions the parser keeps for it (R6, R18, R20): for LINES the
current line number, the lines remaining and the word position; for AUDIO the channel count, the
packet's sample count a·b (log 24) and the word position. -/
inductive Disposition where
  | skip
  | stray
  | lines (line remaining word : Nat)
  | audio (channels total word : Nat)
  deriving DecidableEq, Repr

/-- The packet in progress (R6). -/
structure Packet where
  kind : PacketKind
  disposition : Disposition
  deriving DecidableEq, Repr

/-- A parse context (R6). -/
structure ParseContext where
  state : ParseState
  cursor : Addr
  residue : Nat
  packet : Option Packet
  expectedSeq : BitVec 16
  budget : Nat
  deriving DecidableEq, Repr

/-! ### Frame unit (R26, R27) -/

/-- A timecode: four plain binary bytes (R2). -/
structure Timecode where
  frames : Byte
  seconds : Byte
  minutes : Byte
  hours : Byte
  deriving DecidableEq, Repr

/-- Why a frame has no browse, or NONE (R27, R32). -/
inductive BrowseReason where
  | none | suspended | geometry | slotSize | ringFull | abandoned
  deriving DecidableEq, Repr

/-- The states of a frame record (R28). -/
inductive RecordState where
  | opened | closed | sealing | done
  deriving DecidableEq, Repr

/-- Whether a frame is open and whether it has a record (R26). -/
inductive OpenFrame where
  | none | tracked | untracked
  deriving DecidableEq, Repr

/-- A frame record (R27). -/
structure FrameRecord where
  serial : Count
  timecode : Timecode
  openTime : Time
  ingestAddr : Addr
  frameLength : Nat
  width : Nat
  height : Nat
  slot : Option Nat
  reason : BrowseReason
  rowsQueued : Nat
  rowsAnswered : Nat
  linesReceived : Nat
  lastLine : Option Nat
  linesMissing : Nat
  conditions : BitVec 16
  sequenceGaps : Nat
  peaks : Vector Nat 8
  untrackedBefore : Nat
  state : RecordState
  deriving DecidableEq, Repr

/-- The frame unit's state for one feed, the record list with its oldest record first (R26, R28). -/
structure FrameUnit where
  nextSerial : Count
  expectedTimecode : Option Timecode
  untrackedBefore : Nat
  peaks : Vector Nat 8
  openFrame : OpenFrame
  retirePending : Bool
  records : List FrameRecord
  deriving DecidableEq, Repr

/-! ### Band reducer (R50) -/

/-- Row buffer 0 or row buffer 1 (R68). -/
inductive BufferId where
  | zero | one
  deriving DecidableEq, Repr

/-- The reducer's modes (R50). -/
inductive ReducerMode where
  | idle | reducing
  deriving DecidableEq, Repr

/-- The band reducer of one feed (R50). The four lists hold W/D sums each while REDUCING; where a list is
empty every sum is 0. -/
structure Reducer where
  mode : ReducerMode
  band : Nat
  count : Nat
  line : Option Nat
  lineLuma : List Nat
  lineChroma : List Nat
  bandLuma : List Nat
  bandChroma : List Nat
  reference : Option BufferId
  deriving DecidableEq, Repr

/-! ### Row store (R68) -/

/-- The states of one part of a row write (R68). A part that is dropped leaves its item (log 25). -/
inductive PartState where
  | waiting | queued | issued | answered | orphaned
  deriving DecidableEq, Repr

/-- One part of a row write: which part it is, its bytes' place in the row, and its state (R70). -/
structure RowPart where
  index : Nat
  offset : Nat
  length : Nat
  state : PartState
  deriving DecidableEq, Repr

/-- The standing of a row write list item (R68). -/
inductive Standing where
  | live | orphaned
  deriving DecidableEq, Repr

/-- An item of the row write list (R68). `ident` is the model's own name for the item (log 11); the record
is named by its frame serial. -/
structure RowItem where
  ident : Nat
  serial : Count
  band : Nat
  buffer : BufferId
  addr : Addr
  length : Nat
  parts : List RowPart
  standing : Standing
  deriving DecidableEq, Repr

/-- A row buffer: its use count, and its 4096 bytes as (offset, byte) cells in the canonical form that
Machine/RowStore.lean states (R68). -/
structure RowBuffer where
  useCount : Nat
  cells : List Host.Cell
  deriving DecidableEq, Repr

/-- The row store of one feed, items in the order their rows were handed (R68). -/
structure RowStore where
  buffer0 : RowBuffer
  buffer1 : RowBuffer
  items : List RowItem
  deriving DecidableEq, Repr

/-! ### Browse publisher (R77) -/

/-- The coalescing state of a word the part writes: a publish word (R82), the catalogue producer word
(R102) or the notice producer word (R183). -/
inductive WordState where
  | none | queued | issued | issuedMoved
  deriving DecidableEq, Repr

/-- The browse publisher of one feed (R77). The value of the entry in the queue stands in that entry
(log 13). -/
structure Publisher where
  assigned : Count
  published : Count
  released : Count
  word : WordState
  stale : Bool
  deriving DecidableEq, Repr

/-! ### One feed -/

/-- Everything the part holds for one feed. -/
structure Feed where
  life : Lifecycle
  ingest : Option IngestWindow
  browse : Option Region
  missPending : Bool
  parse : ParseContext
  frame : FrameUnit
  reducer : Reducer
  rows : RowStore
  publisher : Publisher
  deriving DecidableEq, Repr

/-! ### Through-path (R136, R140, R144) -/

/-- A tap entry (R144); its length is that of its data. -/
structure TapEntry where
  feed : FeedId
  addr : Addr
  data : List Byte
  stamp : Time
  afterMiss : Bool
  deriving DecidableEq, Repr

/-- The direction of a forwarded request (R140). -/
inductive Direction where
  | read | write
  deriving DecidableEq, Repr

/-! ### Insertion queue (R153) -/

/-- The source of an insertion entry (R153). -/
inductive Source where
  | feed (f : FeedId)
  | catalogue
  | notice
  | report
  deriving DecidableEq, Repr

/-- The kind of an insertion entry (R153). -/
inductive EntryKind where
  | row | header | publishWord | batch | catalogueWord | notice | noticeWord | statusRecord
  deriving DecidableEq, Repr

/-- The row write item and part a row entry writes (R140, R153). -/
structure RowRef where
  item : Nat
  part : Nat
  deriving DecidableEq, Repr

/-- Where an entry's bytes are found at each issue (R155): in a row buffer of its feed from an offset,
fixed in the entry, or as a count word's value. -/
inductive DataRef where
  | buffer (id : BufferId) (offset : Nat)
  | fixed (bytes : List Byte)
  | word (value : Count)
  deriving DecidableEq, Repr

/-- The byte lanes an entry enables: all, or the four lanes from an offset (R154). -/
inductive LaneSet where
  | all
  | four (offset : Nat)
  deriving DecidableEq, Repr

/-- QUEUED, or ISSUED on a memory-side tag (R153). -/
inductive EntryState where
  | queued
  | issued (tag : Tag)
  deriving DecidableEq, Repr

/-- An insertion entry (R153). -/
structure InsEntry where
  source : Source
  kind : EntryKind
  row : Option RowRef
  addr : Addr
  length : Nat
  lanes : LaneSet
  data : DataRef
  attempt : Nat
  age : Nat
  state : EntryState
  deriving DecidableEq, Repr

/-- The identity an ORPHANED tag holds (R140). -/
structure EntryIdent where
  source : Source
  kind : EntryKind
  row : Option RowRef
  deriving DecidableEq, Repr

/-- The state of a memory-side tag (R140). The entry an INSERTION tag holds is the one whose state is
ISSUED on that tag (log 13). -/
inductive TagState where
  | free
  | forward (master : MasterTag) (direction : Direction)
  | insertion
  | orphaned (ident : EntryIdent)
  deriving DecidableEq, Repr

/-- What a request on the memory side carries: a forwarded request's body, unaltered, or an inserted
write's lanes, where `none` is a disabled lane, whose data the manual does not give (log 7). -/
inductive MemBody where
  | forwarded (body : Body)
  | inserted (lanes : List (Option Byte))
  deriving DecidableEq, Repr

/-- A request given to the memory controller (R136, R161). -/
structure MemRequest where
  tag : Tag
  addr : Addr
  body : MemBody
  deriving DecidableEq, Repr

/-- A response returned upstream (R141). -/
structure Response where
  master : MasterTag
  answer : Answer
  deriving DecidableEq, Repr

/-! ### Catalogue writer (R90, R93) -/

/-- The catalogue definition (R91). -/
structure CatalogueDef where
  base : Addr
  entries : Nat
  trigger : Nat
  flushMs : Nat
  deriving DecidableEq, Repr

/-- An index record (R93); its audio peaks are the reported values, floor(peak / 128) (R40). -/
structure IndexRecord where
  feed : FeedId
  tag : Byte
  conditions : BitVec 16
  serial : Count
  timecode : Timecode
  reason : BrowseReason
  untrackedBefore : Nat
  lostBefore : Nat
  openTime : Time
  ingestAddr : Addr
  frameLength : Nat
  linesMissing : Nat
  sequenceGaps : Nat
  slotAddr : Option Addr
  peaks : Vector Nat 8
  deriving DecidableEq, Repr

/-- A staged record and its staging time (R94). -/
structure StagedRecord where
  record : IndexRecord
  time : Time
  deriving DecidableEq, Repr

/-- The batch in flight (R90, R99). -/
structure Batch where
  first : Nat
  size : Nat
  deriving DecidableEq, Repr

/-- The catalogue writer (R90), with the catalogue region of the window table (R133). -/
structure Catalogue where
  defn : Option CatalogueDef
  region : Option Region
  staging : List StagedRecord
  batch : Option Batch
  produced : Count
  consumed : Count
  lost : Nat
  word : WordState
  deriving DecidableEq, Repr

/-! ### Command unit (R173) -/

/-- A captured command record: its 64 bytes (R173). -/
structure Command where
  bytes : List Byte
  deriving DecidableEq, Repr

/-- The phase of the head command (R173). -/
inductive HeadPhase where
  | ready | reporting | reported
  deriving DecidableEq, Repr

/-- The command unit (R173). -/
structure CommandUnit where
  queue : List Command
  phase : HeadPhase
  deriving DecidableEq, Repr

/-! ### Notice writer (R179 to R183) -/

/-- The results of a command (R174). -/
inductive CommandResult where
  | done | busy | noFeed | badParameter | overlap | noCatalogue | unknownCommand
  deriving DecidableEq, Repr

/-- The kinds of notice and what each carries (R179). -/
inductive NoticeBody where
  | commandDone (serial : BitVec 16) (opcode : Byte) (feedField : Byte) (result : CommandResult) (detail : Nat)
  | feedLost (feed : FeedId) (lastArrival : Time) (closed : Option Count)
  | feedRestored (feed : FeedId) (arrival : Time)
  | feedFault (feed : FeedId) (cause : FaultCause) (discarded : Nat)
  deriving DecidableEq, Repr

/-- A notice with its time stamp and lost-notice count (R179). -/
structure Notice where
  time : Time
  lost : Nat
  body : NoticeBody
  deriving DecidableEq, Repr

/-- The notice writer (R172, R180 to R183). -/
structure NoticeWriter where
  staging : List Notice
  produced : Count
  consumed : Count
  lost : Nat
  word : WordState
  deriving DecidableEq, Repr

/-- The engine condition (R187). -/
inductive Engine where
  | normal | controlPathFailed
  deriving DecidableEq, Repr

/-! ### The machine -/

/-- The state of the part and the queue of commands waiting for it. -/
structure State where
  pending : List Instr
  straps : BitVec 8
  timeBase : Time
  forwardQ : List FabricRequest
  tapQ : List TapEntry
  tags : Vector TagState 128
  insQ : List InsEntry
  nextAge : Nat
  credit : Nat
  catalogue : Catalogue
  commands : CommandUnit
  notices : NoticeWriter
  engine : Engine
  feeds : Vector Feed 16
  nextRowId : Nat
  memPort : Option MemRequest
  fabricPort : Option Response
  deriving DecidableEq, Repr

/-- Why the machine could stop. No rule of the manual stops the part: a feed fault (R125) and CONTROL PATH
FAILED (R187) are effects on the state, so no command raises this. -/
inductive Fault where
  /-- Raised by nothing: the part has no stop. Safe. -/
  | noStop
  deriving DecidableEq, Repr

/-- Why a command could have no meaning. -/
inductive Refusal where
  /-- A command the model gives no meaning yet; the dispatcher raises it by mnemonic. Safe. -/
  | notModelled (mnemonic : String)
  deriving DecidableEq, Repr

/-! ### Reset values -/

/-- All ten counters at zero (R128). -/
def Counters.zero : Counters := ⟨0, 0, 0, 0, 0, 0, 0, 0, 0, 0⟩

/-- A feed's lifecycle after reset: VACANT, nothing defined (R107). -/
def Lifecycle.reset : Lifecycle :=
  { state := .vacant, defn := none, presence := .awaiting, lastArrival := 0, fault := none,
    drain := none, counters := Counters.zero }

/-- A parse context after reset (R6). -/
def ParseContext.reset : ParseContext :=
  { state := .idle, cursor := 0, residue := 0, packet := none, expectedSeq := 0, budget := 0 }

/-- The frame unit after reset (R26). -/
def FrameUnit.reset : FrameUnit :=
  { nextSerial := 0, expectedTimecode := none, untrackedBefore := 0, peaks := Vector.replicate 8 0,
    openFrame := .none, retirePending := false, records := [] }

/-- The reducer after reset (R50). -/
def Reducer.reset : Reducer :=
  { mode := .idle, band := 0, count := 0, line := none, lineLuma := [], lineChroma := [],
    bandLuma := [], bandChroma := [], reference := none }

/-- A row buffer at State.reset. The manual clears no buffer (R68); the contents at power-up are
DESIGN CHOICE all zero (log 9, unsafe). -/
def RowBuffer.reset : RowBuffer := { useCount := 0, cells := [] }

/-- The row store after reset (R68). -/
def RowStore.reset : RowStore := { buffer0 := RowBuffer.reset, buffer1 := RowBuffer.reset, items := [] }

/-- The publisher after reset (R77). -/
def Publisher.reset : Publisher :=
  { assigned := 0, published := 0, released := 0, word := .none, stale := false }

/-- A feed after reset. -/
def Feed.reset : Feed :=
  { life := Lifecycle.reset, ingest := none, browse := none, missPending := false,
    parse := ParseContext.reset, frame := FrameUnit.reset, reducer := Reducer.reset,
    rows := RowStore.reset, publisher := Publisher.reset }

/-- The catalogue writer after reset (R90). -/
def Catalogue.reset : Catalogue :=
  { defn := none, region := none, staging := [], batch := none, produced := 0, consumed := 0,
    lost := 0, word := .none }

/-- The command unit after power-on reset (R173, R190). -/
def CommandUnit.reset : CommandUnit := { queue := [], phase := .ready }

/-- The notice writer after power-on reset (R190). -/
def NoticeWriter.reset : NoticeWriter :=
  { staging := [], produced := 0, consumed := 0, lost := 0, word := .none }

/-- The machine right after power-on reset (R150, R190). The strap value sampled then is an input;
State.reset has DESIGN CHOICE straps 0 (log 8, unsafe). -/
def State.reset : State :=
  { pending := [], straps := 0, timeBase := 0, forwardQ := [], tapQ := [],
    tags := Vector.replicate 128 .free, insQ := [], nextAge := 0, credit := 0,
    catalogue := Catalogue.reset, commands := CommandUnit.reset, notices := NoticeWriter.reset,
    engine := .normal, feeds := Vector.replicate 16 Feed.reset, nextRowId := 0,
    memPort := none, fabricPort := none }

end Sys2Proof.Machine
end

