-- ==== Sys2Proof/Machine/Flags.lean ====
section
/-! DEFINITION. The condition set of a frame record: sixteen flags, thirteen defined (R48), with the bit
places of chapter 11.2. -/

namespace Sys2Proof.Machine

/-- The thirteen defined flags (R48). -/
inductive Condition where
  | break | noClose | lost | seqGap | disorder | range | malformed | tcJump | tcSubstituted
  | tcInvalid | audioMalformed | linesMissing | intruded
  deriving DecidableEq, Repr

/-- The bit of a flag in the condition set (11.2). -/
def Condition.bit : Condition → Nat
  | .break => 0
  | .noClose => 1
  | .lost => 2
  | .seqGap => 3
  | .disorder => 4
  | .range => 5
  | .malformed => 6
  | .tcJump => 7
  | .tcSubstituted => 8
  | .tcInvalid => 9
  | .audioMalformed => 10
  | .linesMissing => 11
  | .intruded => 12

/-- The condition set with one flag alone. -/
def Condition.mask (c : Condition) : BitVec 16 := 1#16 <<< c.bit

/-- Setting a flag; a flag already set stays set (R48). -/
def setCondition (c : Condition) (set : BitVec 16) : BitVec 16 := set ||| c.mask

/-- Whether a flag is set. -/
def hasCondition (c : Condition) (set : BitVec 16) : Bool := set.getLsbD c.bit

/-- A record with one flag set (R48). -/
def FrameRecord.flag (c : Condition) (r : FrameRecord) : FrameRecord :=
  { r with conditions := setCondition c r.conditions }

/-- A record with a flag set where a test holds. -/
def FrameRecord.flagIf (test : Bool) (c : Condition) (r : FrameRecord) : FrameRecord :=
  if test then r.flag c else r

end Sys2Proof.Machine
end

