-- ==== Sys2Proof/Machine/Ops.lean ====
section
/-! DEFINITION. The operations every block shares: reaching a feed, the memory-side tags, making and
withdrawing insertion entries (R157, R166, R167), and the coalescing of the three kinds of word the part writes (R82,
R102, R183). -/

namespace Sys2Proof.Machine

/-! ### Feeds -/

/-- Feed `f` of the machine. -/
def State.feed (s : State) (f : FeedId) : Feed := s.feeds[f]

/-- The machine with feed `f` replaced. -/
def State.setFeed (s : State) (f : FeedId) (x : Feed) : State := { s with feeds := s.feeds.set f x }

/-- The machine with feed `f` changed by `g`. -/
def State.modFeed (s : State) (f : FeedId) (g : Feed → Feed) : State := s.setFeed f (g (s.feed f))

/-- The sixteen feeds, in number order. -/
def allFeeds : List FeedId := List.finRange 16

/-- The definition a feed works by, with every value zero where none is present (R176). -/
def FeedDef.zero : FeedDef :=
  { tag := 0, ingestBase := 0, ingestSize := 0, browseBase := 0, slotSize := 0, slotCount := 0,
    decimation := 0, legalClamp := false, rateCode := 0, priority := 0, lossTimeout := 0 }

/-- The parameters a feed works by (R110). -/
def Feed.params (x : Feed) : FeedDef := x.life.defn.getD FeedDef.zero

/-- A feed with one of its status counters changed (R128). -/
def Feed.count (g : Counters → Counters) (x : Feed) : Feed :=
  { x with life := { x.life with counters := g x.life.counters } }

/-- A status counter counted, saturating (00_scope, Status counters). -/
def bump (x k : Nat) : Nat := satAdd Config.counterLimit x k

/-- The parser of a feed runs: its context is not IDLE (R7). -/
def Feed.running (x : Feed) : Bool := decide (x.parse.state ≠ .idle)

/-! ### The control block and the engine -/

/-- The base of the control block (R170). -/
def State.controlBase (s : State) : Nat := s.straps.toNat * 2 ^ 32

/-- The address of an offset of the control block (R170). -/
def State.controlAddr (s : State) (offset : Nat) : Addr := BitVec.ofNat 40 (s.controlBase + offset)

/-- The engine condition is NORMAL. -/
def State.normal (s : State) : Bool := decide (s.engine = .normal)

/-- The ATTENTION line (R184). -/
def State.attention (s : State) : Bool := decide (s.notices.produced ≠ s.notices.consumed)

/-- The FAULT line (R185). -/
def State.faultLine (s : State) : Bool := decide (s.engine = .controlPathFailed)

/-! ### Memory-side tags (R140) -/

/-- The lowest-numbered FREE tag (R140). -/
def lowestFree (tags : Vector TagState 128) : Option Tag :=
  (List.finRange 128).find? fun t => tags[t] = .free

/-- The machine with one tag's state replaced. -/
def State.setTag (s : State) (t : Tag) (x : TagState) : State := { s with tags := s.tags.set t x }

/-- A tag is ORPHANED and names feed `f` (R140). -/
def TagState.orphanOf (f : FeedId) : TagState → Bool
  | .orphaned i => decide (i.source = .feed f)
  | _ => false

/-- Feed `f` owns an outstanding orphaned tag (R140). -/
def ownsOrphan (tags : Vector TagState 128) (f : FeedId) : Bool :=
  (List.finRange 128).any fun t => tags[t].orphanOf f

/-! ### Insertion entries -/

/-- An entry is QUEUED. -/
def InsEntry.queued (e : InsEntry) : Bool := decide (e.state = .queued)

/-- The identity of an entry, kept by the tag of an orphaned one (R140). -/
def InsEntry.ident (e : InsEntry) : EntryIdent := { source := e.source, kind := e.kind, row := e.row }

/-- The places a source has for each kind (R156). -/
def EntryKind.limit : EntryKind → Nat
  | .row => 2
  | _ => 1

/-- The source's quota has a place of the kind (R156). -/
def quotaRoom (q : List InsEntry) (src : Source) (kind : EntryKind) : Bool :=
  decide ((q.countP fun e => decide (e.source = src) && decide (e.kind = kind)) < kind.limit)

/-- What a source gives an entry at its making (R157). -/
structure EntryDraft where
  source : Source
  kind : EntryKind
  row : Option RowRef
  addr : Addr
  length : Nat
  lanes : LaneSet
  data : DataRef
  deriving DecidableEq, Repr

/-- The entry a draft becomes: attempt 1, QUEUED, the next age (R157). -/
def EntryDraft.entry (d : EntryDraft) (age : Nat) : InsEntry :=
  { source := d.source, kind := d.kind, row := d.row, addr := d.addr, length := d.length,
    lanes := d.lanes, data := d.data, attempt := 1, age := age, state := .queued }

/-- Making an entry: where the engine is NORMAL and the quota has a place it joins the queue's tail, else
the call is dropped (R156, R157). -/
def makeEntry (d : EntryDraft) (s : State) : State :=
  if s.normal && quotaRoom s.insQ d.source d.kind then
    { s with insQ := s.insQ ++ [d.entry s.nextAge], nextAge := s.nextAge + 1 }
  else s

/-- The tags after an entry is withdrawn: an ISSUED one's tag becomes ORPHANED (R167). -/
def orphanTag (tags : Vector TagState 128) (e : InsEntry) : Vector TagState 128 :=
  match e.state with
  | .queued => tags
  | .issued t => tags.set t (.orphaned e.ident)

/-- Withdrawing entries: the QUEUED ones are removed, the ISSUED ones orphaned (R166, R167). -/
def withdraw (which : InsEntry → Bool) (s : State) : State :=
  { s with insQ := s.insQ.filter fun e => !which e,
           tags := (s.insQ.filter which).foldl orphanTag s.tags }

/-- The queue with one entry, named by its age, changed. -/
def changeEntry (age : Nat) (g : InsEntry → InsEntry) (q : List InsEntry) : List InsEntry :=
  q.map fun e => if e.age = age then g e else e

/-- The entry ISSUED on a tag (R161). -/
def entryOn (q : List InsEntry) (t : Tag) : Option InsEntry := q.find? fun e => e.state = .issued t

/-- The notice staging queue has room (R180). -/
def State.noticeRoom (s : State) : Bool := decide (s.notices.staging.length < Config.noticeCapacity)

/-! ### The words the part writes (R82, R102, R183) -/

/-- A publish word, the catalogue producer word or the notice producer word. -/
inductive WordId where
  | publish (f : FeedId)
  | catalogue
  | notice
  deriving DecidableEq, Repr

/-- The source whose word it is (R154). -/
def WordId.source : WordId → Source
  | .publish f => .feed f
  | .catalogue => .catalogue
  | .notice => .notice

/-- The kind of the word's entry (R154). -/
def WordId.kind : WordId → EntryKind
  | .publish _ => .publishWord
  | .catalogue => .catalogueWord
  | .notice => .noticeWord

/-- The word's offset in the control block (R154). -/
def WordId.offset : WordId → Nat
  | .publish f => Config.publishOffset + 4 * f.val
  | .catalogue => Config.producerOffset + 4
  | .notice => Config.producerOffset

/-- The count the word shows: P, Wc or Pn. -/
def WordId.value (w : WordId) (s : State) : Count :=
  match w with
  | .publish f => (s.feed f).publisher.published
  | .catalogue => s.catalogue.produced
  | .notice => s.notices.produced

/-- The word's coalescing state. -/
def WordId.state (w : WordId) (s : State) : WordState :=
  match w with
  | .publish f => (s.feed f).publisher.word
  | .catalogue => s.catalogue.word
  | .notice => s.notices.word

/-- The machine with the word's coalescing state replaced. -/
def setWord (w : WordId) (x : WordState) (s : State) : State :=
  match w with
  | .publish f => s.modFeed f fun y => { y with publisher := { y.publisher with word := x } }
  | .catalogue => { s with catalogue := { s.catalogue with word := x } }
  | .notice => { s with notices := { s.notices with word := x } }

/-- An entry is the word's (R154). -/
def WordId.owns (w : WordId) (e : InsEntry) : Bool := decide (e.source = w.source) && decide (e.kind = w.kind)

/-- The entry that writes the word: the 32 bytes at the boundary below it, its four lanes enabled,
carrying the present count (R82, R102, R154, R183). -/
def wordDraft (w : WordId) (s : State) : EntryDraft :=
  { source := w.source, kind := w.kind, row := none,
    addr := s.controlAddr (w.offset / 32 * 32), length := 32, lanes := .four (w.offset % 32),
    data := .word (w.value s) }

/-- Making the word's entry with the present count; its state becomes QUEUED. -/
def queueWord (w : WordId) (s : State) : State := setWord w .queued (makeEntry (wordDraft w s) s)

/-- The word's entry takes the present count as its value (R82, R102, R183). -/
def replaceWord (w : WordId) (s : State) : State :=
  { s with insQ := s.insQ.map fun e => if w.owns e then { e with data := .word (w.value s) } else e }

/-- Bringing the word up to date when its count increases: the coalescing tables of R82, R102 and R183. -/
def updateWord (w : WordId) (s : State) : State :=
  match w.state s with
  | .none => queueWord w s
  | .queued => replaceWord w s
  | .issued => setWord w .issuedMoved s
  | .issuedMoved => s

/-- The word's entry has been answered without error, having written `written` (R82, R102, R183). -/
def wordAnswered (w : WordId) (written : Count) (s : State) : State :=
  if w.state s = .issuedMoved ∧ w.value s ≠ written then queueWord w s else setWord w .none s

end Sys2Proof.Machine
end

