-- ==== Sys2Proof/Machine/Layouts.lean ====
section
/-! DEFINITION. The byte layouts of the records the part writes (chapter 11.2, R192): notices, index records,
browse headers and status records, every unassigned byte zero. -/

namespace Sys2Proof.Machine

/-- The four bytes of a timecode, frames first (chapter 11). -/
def timecodeBytes (t : Timecode) : List Byte := [t.frames, t.seconds, t.minutes, t.hours]

/-- A 40-bit address in an 8-byte field (chapter 11). -/
def addrBytes (a : Addr) : List Byte := leBytes 8 a.toNat

/-- A flag in a byte. -/
def boolByte (b : Bool) : Byte := if b then 1 else 0

/-- The code of a command result (11.2). -/
def CommandResult.code : CommandResult → Byte
  | .done => 0
  | .busy => 1
  | .noFeed => 2
  | .badParameter => 3
  | .overlap => 4
  | .noCatalogue => 5
  | .unknownCommand => 6

/-- The code of a fault cause, in the status record and in FEED FAULT (11.2). -/
def FaultCause.code : FaultCause → Byte
  | .browseWriteFailed => 1
  | .publishWriteFailed => 2
  | .noLock => 3

/-- The code of a browse reason (11.2). -/
def BrowseReason.code : BrowseReason → Byte
  | .none => 0
  | .suspended => 1
  | .geometry => 2
  | .slotSize => 3
  | .ringFull => 4
  | .abandoned => 5

/-- The code of a feed state (11.2). -/
def FeedState.code : FeedState → Byte
  | .vacant => 0
  | .defined => 1
  | .active => 2
  | .suspended => 3
  | .draining => 4
  | .faulted => 5

/-- The code of a presence (11.2). -/
def Presence.code : Presence → Byte
  | .awaiting => 0
  | .present => 1
  | .absent => 2

/-- A feed number in a byte. -/
def feedByte (f : FeedId) : Byte := BitVec.ofNat 8 f.val

/-- The 32 bytes of a notice (11.2). -/
def Notice.bytes (n : Notice) : List Byte :=
  let lost := BitVec.ofNat 8 n.lost
  let time := leBytes 8 n.time.toNat
  match n.body with
  | .commandDone serial opcode feedField result detail =>
    [1, lost, opcode, feedField] ++ leBytes 2 serial.toNat ++ [result.code, 0] ++ time
      ++ leBytes 2 detail ++ zeros 14
  | .feedLost f lastArrival closed =>
    [2, lost, 0, feedByte f] ++ zeros 4 ++ time ++ leBytes 8 lastArrival.toNat
      ++ leBytes 4 (closed.getD 0).toNat ++ [boolByte closed.isSome, 0, 0, 0]
  | .feedRestored f arrival =>
    [3, lost, 0, feedByte f] ++ zeros 4 ++ time ++ leBytes 8 arrival.toNat ++ zeros 8
  | .feedFault f cause discarded =>
    [4, lost, 0, feedByte f] ++ zeros 4 ++ time ++ [cause.code, BitVec.ofNat 8 discarded] ++ zeros 14

/-- The 64 bytes of an index record (11.2). -/
def IndexRecord.bytes (r : IndexRecord) : List Byte :=
  [feedByte r.feed, r.tag] ++ leBytes 2 r.conditions.toNat ++ leBytes 4 r.serial.toNat
    ++ timecodeBytes r.timecode ++ [r.reason.code, BitVec.ofNat 8 r.untrackedBefore]
    ++ leBytes 2 r.lostBefore ++ leBytes 8 r.openTime.toNat ++ addrBytes r.ingestAddr
    ++ leBytes 4 r.frameLength ++ leBytes 2 r.linesMissing ++ leBytes 2 r.sequenceGaps
    ++ addrBytes (r.slotAddr.getD 0) ++ r.peaks.toList.flatMap (leBytes 2)

/-- The pitch of a browse row: 2W/D rounded up to a multiple of 32 (R63). -/
def rowPitch (d w : Nat) : Nat := roundUp32 (2 * w / d)

/-- The 64 bytes of a browse frame header (R80, 11.2). -/
def headerBytes (f : FeedId) (p : FeedDef) (r : FrameRecord) : List Byte :=
  [feedByte f, p.tag] ++ leBytes 2 r.conditions.toNat ++ leBytes 4 r.serial.toNat
    ++ timecodeBytes r.timecode ++ leBytes 2 (r.width / p.decimation) ++ leBytes 2 (r.height / p.decimation)
    ++ leBytes 2 (rowPitch p.decimation r.width) ++ [boolByte p.legalClamp, 0] ++ leBytes 2 r.linesMissing
    ++ zeros 2 ++ leBytes 8 r.openTime.toNat ++ zeros 32

/-- The ten counters in the order of the status record (11.2). -/
def Counters.list (c : Counters) : List Nat :=
  [c.framesOpened, c.framesPublished, c.browseAbsent, c.breaks, c.headerRejects, c.tapMisses,
   c.strayPackets, c.sequenceGaps, c.untrackedFrames, c.badReleases]

/-- The 128 bytes of a feed's status record at a report time (R176, 11.2). -/
def statusBytes (f : FeedId) (time : Time) (x : Feed) : List Byte :=
  let p := x.params
  let cause : Byte := match x.life.fault with
    | none => 0
    | some w => w.first.code
  let further : Bool := match x.life.fault with
    | none => false
    | some w => w.furtherBrowse
  [feedByte f, x.life.state.code, x.life.presence.code, BitVec.ofNat 8 x.frame.records.length,
   cause, boolByte further, p.tag, BitVec.ofNat 8 p.decimation]
    ++ leBytes 8 time.toNat ++ leBytes 8 x.life.lastArrival.toNat ++ addrBytes p.ingestBase
    ++ leBytes 4 p.ingestSize ++ leBytes 4 p.slotSize ++ addrBytes p.browseBase ++ leBytes 2 p.slotCount
    ++ [BitVec.ofNat 8 p.rateCode, boolByte p.legalClamp, BitVec.ofNat 8 p.priority, 0]
    ++ leBytes 2 p.lossTimeout ++ leBytes 4 x.publisher.assigned.toNat
    ++ leBytes 4 x.publisher.published.toNat ++ leBytes 4 x.publisher.released.toNat
    ++ leBytes 4 x.frame.nextSerial.toNat ++ x.life.counters.list.flatMap (leBytes 4) ++ zeros 16

end Sys2Proof.Machine
end

