-- ==== Sys2Proof/Machine/Catalogue.lean ====
section
/-! DEFINITION. The catalogue writer (chapter 5): the batch start test and the batch (R96 to R99), staging index
records (R94, R95), the batch answer (R100) and the consumer word (R103). The test is made inside the step at every
event that R96 names. -/

namespace Sys2Proof.Machine

/-- The oldest staged record has waited at least the flush timeout (R97). -/
def flushWaited (s : State) (d : CatalogueDef) : Bool :=
  match s.catalogue.staging with
  | [] => false
  | r :: _ => decide (d.flushMs * 1000 ≤ s.timeBase.toNat - r.time.toNat)

/-- The batch size n: the least of the five bounds (R98). -/
def batchSize (c : Catalogue) (d : CatalogueDef) : Nat :=
  min c.staging.length <| min Config.batchLimit <| min (d.entries - (c.produced - c.consumed).toNat) <|
    min (d.entries - c.produced.toNat % d.entries) (64 - c.produced.toNat % 64)

/-- The conditions of the batch start test (R96). -/
def batchReady (s : State) (d : CatalogueDef) : Bool :=
  decide (s.catalogue.batch = none) && s.normal
    && (decide (d.trigger ≤ s.catalogue.staging.length) || flushWaited s d)
    && decide (1 ≤ batchSize s.catalogue d) && quotaRoom s.insQ .catalogue .batch

/-- The entry of a batch of `n` records (R99, R154). -/
def batchDraft (c : Catalogue) (d : CatalogueDef) (n : Nat) : EntryDraft :=
  { source := .catalogue, kind := .batch, row := none,
    addr := d.base + BitVec.ofNat 40 (64 * (c.produced.toNat % d.entries)), length := 64 * n, lanes := .all,
    data := .fixed ((c.staging.take n).flatMap fun r => r.record.bytes) }

/-- The batch starts: its entry is made and it is in flight (R99). -/
def makeBatch (d : CatalogueDef) (s : State) : State :=
  let n := batchSize s.catalogue d
  let s' := makeEntry (batchDraft s.catalogue d n) s
  { s' with catalogue := { s'.catalogue with
      batch := some { first := s.catalogue.produced.toNat % d.entries, size := n } } }

/-- The batch start test: a batch starts where every condition holds (R96). -/
def startBatch (s : State) : State :=
  match s.catalogue.defn with
  | none => s
  | some d => if batchReady s d then makeBatch d s else s

/-- The flush timeout of the oldest staged record has expired (R97). -/
def flushExpired (s : State) : Bool :=
  match s.catalogue.defn with
  | none => false
  | some d => flushWaited s d

/-- A record handed to the writer while fewer than 32 are staged joins the staging queue's tail with the lost-record
count, which becomes 0 (R94). -/
def appendIndex (r : IndexRecord) (s : State) : State :=
  let c := s.catalogue
  { s with catalogue := { c with
      staging := c.staging ++ [{ record := { r with lostBefore := c.lost }, time := s.timeBase }], lost := 0 } }

/-- A record handed to the writer is staged, and the start test follows it; where 32 are staged it is dropped and
counted, and no test is made (R94 to R96). -/
def stageIndex (r : IndexRecord) (s : State) : State :=
  if s.catalogue.staging.length < Config.stagingCapacity then startBatch (appendIndex r s)
  else { s with catalogue := { s.catalogue with lost := satAdd 65535 s.catalogue.lost 1 } }

/-- A batch answered without error: Wc moves, its records leave staging, the producer word is brought up to
date, and the start test is made, in this order (R100). -/
def batchAnswered (s : State) : State :=
  match s.catalogue.batch with
  | none => s
  | some b =>
    startBatch <| updateWord .catalogue { s with catalogue := { s.catalogue with
      produced := s.catalogue.produced + BitVec.ofNat 32 b.size,
      staging := s.catalogue.staging.drop b.size, batch := none } }

/-- A consumer or release value is taken when 0 < (v − old) mod 2^32 ≤ (limit − old) mod 2^32 (R86, R103,
R172). -/
def countTaken (v old limit : Count) : Bool := decide (0 < (v - old).toNat) && decide ((v - old).toNat ≤ (limit - old).toNat)

/-- A catalogue consumer value; where Rc changes, the start test is made (R96, R103). -/
def catalogueConsumer (v : Count) (s : State) : State :=
  if s.catalogue.defn.isSome && countTaken v s.catalogue.consumed s.catalogue.produced then
    startBatch { s with catalogue := { s.catalogue with consumed := v } }
  else s

/-- BATCH_START: the start test as a step of its own (R96). The steps that raise its events have made it already, so
it finds a batch to start only where the flush timeout has run out since (log 5). -/
def execBatchStart (s : State) : Host.Outcome State Fault Refusal := .next (startBatch s)

/-- FLUSH_TIMEOUT_EXPIRY: where the oldest staged record's flush timeout has expired, the batch start test is
made, and where it passes the batch starts in this step (R96, R97, log 5). -/
def execFlushTimeoutExpiry (s : State) : Host.Outcome State Fault Refusal :=
  .next (if flushExpired s then startBatch s else s)

end Sys2Proof.Machine
end

