-- ==== Sys2Proof/Machine/Operands.lean ====
section
/-! DEFINITION. Reading what software and the front-ends write: the shape of a fabric request (R130, R132),
the essence packet header (R2, R3) and the command record (R174, R191). -/

namespace Sys2Proof.Machine

/-! ### Fabric requests -/

/-- The direction of a request. -/
def bodyDirection : Body → Direction
  | .read _ => .read
  | .write _ => .write

/-- Every byte lane is enabled: the write is whole (00_scope, Byte lanes). -/
def lanesWhole (lanes : List Lane) : Bool := lanes.all Lane.enable

/-- The request keeps the 4 KiB rule (R132). -/
def keepsRule (r : FabricRequest) : Bool :=
  decide (32 ≤ r.body.length) && decide (r.body.length ≤ Config.blockBytes)
    && decide (r.body.length % 32 = 0) && decide (r.addr.toNat % 32 = 0)
    && decide (r.addr.toNat / Config.blockBytes = (r.addr.toNat + r.body.length - 1) / Config.blockBytes)

/-- A four-byte word at `offset` from the write's first byte, where the write covers it with all its lanes
enabled (R171). -/
def coveredWord (lanes : List Lane) (offset : Nat) : Option Count :=
  let word := (lanes.drop offset).take 4
  if word.length = 4 && lanesWhole word then some (BitVec.ofNat 32 (leNat (word.map Lane.data))) else none

/-! ### Essence packet headers -/

/-- The fields of an essence packet header (R2); `len` is the payload length. -/
structure EssenceHeader where
  kind : PacketKind
  sequence : BitVec 16
  a : Nat
  len : Nat
  timecode : Timecode
  b : Nat
  c : Nat
  deriving DecidableEq, Repr

/-- The packet kind a header byte names (R2). -/
def packetKind : Nat → Option PacketKind
  | 1 => some .opening
  | 2 => some .lines
  | 3 => some .audio
  | 4 => some .close
  | 5 => some .fill
  | _ => none

/-- The check sum of 32 header bytes: their sixteen words added modulo 65536 (R3). -/
def checkSum (bytes : List Byte) : Nat := (words16 bytes).sum % 65536

/-- The four bytes of a header's timecode field (R2). -/
def timecodeAt (bytes : List Byte) (offset : Nat) : Timecode :=
  { frames := bytes.getD offset 0, seconds := bytes.getD (offset + 1) 0,
    minutes := bytes.getD (offset + 2) 0, hours := bytes.getD (offset + 3) 0 }

/-- The header of 32 bytes, where it is valid under R3 for a feed with this tag. -/
def readHeader (tag : Byte) (bytes : List Byte) : Option EssenceHeader :=
  match packetKind (fieldAt bytes 2 1) with
  | none => none
  | some kind =>
    if fieldAt bytes 0 2 = 0xA55C && checkSum bytes = 0 && bytes.getD 3 0 = tag
        && fieldAt bytes 8 4 % 32 = 0 && decide (fieldAt bytes 8 4 ≤ Config.payloadLimit) then
      some { kind := kind, sequence := BitVec.ofNat 16 (fieldAt bytes 4 2), a := fieldAt bytes 6 2,
             len := fieldAt bytes 8 4, timecode := timecodeAt bytes 12, b := fieldAt bytes 16 2,
             c := fieldAt bytes 18 2 }
    else none

/-- A LINES packet is well-formed for a frame of width `w` (R4, R37). -/
def linesWellFormed (w : Nat) (h : EssenceHeader) : Bool :=
  decide (1 ≤ h.b) && decide (h.b ≤ 16) && decide (1 ≤ w) && decide (h.len = roundUp32 (4 * w * h.b))

/-- An AUDIO packet is well-formed (R5). -/
def audioWellFormed (h : EssenceHeader) : Bool :=
  decide (1 ≤ h.a) && decide (h.a ≤ 8) && decide (1 ≤ h.b) && decide (h.b ≤ 8192)
    && decide (h.len = roundUp32 (4 * h.a * h.b))

/-! ### Command records -/

/-- The nine commands (R174). -/
inductive Opcode where
  | setCatalogue | defineFeed | startFeed | suspendFeed | resumeFeed | retireFeed | restartFeed
  | reportFeed | resetEngine
  deriving DecidableEq, Repr

/-- The opcode byte of a record (11.1). -/
def Command.opcodeByte (c : Command) : Byte := c.bytes.getD 0 0

/-- The feed field of a record, as captured (11.1). -/
def Command.feedField (c : Command) : Byte := c.bytes.getD 1 0

/-- The serial of a record (11.1). -/
def Command.serial (c : Command) : BitVec 16 := BitVec.ofNat 16 (fieldAt c.bytes 2 2)

/-- The command an opcode byte names (11.1). -/
def opcodeOf (code : Byte) : Option Opcode :=
  match code.toNat with
  | 1 => some .setCatalogue
  | 2 => some .defineFeed
  | 3 => some .startFeed
  | 4 => some .suspendFeed
  | 5 => some .resumeFeed
  | 6 => some .retireFeed
  | 7 => some .restartFeed
  | 8 => some .reportFeed
  | 9 => some .resetEngine
  | _ => none

/-- The command a record names. -/
def Command.opcode (c : Command) : Option Opcode := opcodeOf c.opcodeByte

/-- The feed a record names, where its feed field is 0 to 15 (R174). -/
def Command.feed (c : Command) : Option FeedId :=
  if h : c.feedField.toNat < 16 then some ⟨c.feedField.toNat, h⟩ else none

/-- The two modes of RETIRE FEED (11.1). -/
inductive RetireMode where
  | atFrameEnd | now
  deriving DecidableEq, Repr

/-- The mode of a RETIRE FEED record, where it is one of the two (R119). -/
def Command.retireMode (c : Command) : Option RetireMode :=
  match (c.bytes.getD 4 0).toNat with
  | 1 => some .atFrameEnd
  | 2 => some .now
  | _ => none

/-- The parameters of SET CATALOGUE, as read (11.1). -/
structure CatalogueParams where
  base : Nat
  entries : Nat
  trigger : Nat
  flushMs : Nat
  deriving DecidableEq, Repr

/-- Reading the parameters of SET CATALOGUE, each at its full width (R191). -/
def Command.catalogueParams (c : Command) : CatalogueParams :=
  { base := fieldAt c.bytes 8 8, entries := fieldAt c.bytes 16 4, trigger := fieldAt c.bytes 20 1,
    flushMs := fieldAt c.bytes 22 2 }

/-- The parameters of SET CATALOGUE are in range (R91, result 2). -/
def CatalogueParams.inRange (p : CatalogueParams) : Bool :=
  decide (p.base % 4096 = 0) && ((List.range 11).any fun k => p.entries = 64 * 2 ^ k)
    && [1, 2, 4, 8, 16].contains p.trigger && decide (1 ≤ p.flushMs) && decide (p.flushMs ≤ 1000)
    && decide (p.base + 64 * p.entries ≤ 2 ^ 40)

/-- The parameters of DEFINE FEED, as read (11.1). -/
structure FeedParams where
  tag : Byte
  decimation : Nat
  legalClamp : Nat
  rateCode : Nat
  ingestBase : Nat
  ingestSize : Nat
  slotSize : Nat
  browseBase : Nat
  slotCount : Nat
  priority : Nat
  lossTimeout : Nat
  deriving DecidableEq, Repr

/-- Reading the parameters of DEFINE FEED, each at its full width (R191). -/
def Command.feedParams (c : Command) : FeedParams :=
  { tag := c.bytes.getD 4 0, decimation := fieldAt c.bytes 5 1, legalClamp := fieldAt c.bytes 6 1,
    rateCode := fieldAt c.bytes 7 1, ingestBase := fieldAt c.bytes 8 8, ingestSize := fieldAt c.bytes 16 4,
    slotSize := fieldAt c.bytes 20 4, browseBase := fieldAt c.bytes 24 8, slotCount := fieldAt c.bytes 32 2,
    priority := fieldAt c.bytes 34 1, lossTimeout := fieldAt c.bytes 36 2 }

/-- The parameters of DEFINE FEED are in range (R110). -/
def FeedParams.inRange (p : FeedParams) : Bool :=
  ((List.range 15).any fun k => p.ingestSize = 65536 * 2 ^ k)
    && decide (p.ingestBase % p.ingestSize = 0) && decide (p.ingestBase + p.ingestSize ≤ 2 ^ 40)
    && decide (p.browseBase % 4096 = 0)
    && decide (4096 ≤ p.slotSize) && decide (p.slotSize ≤ 16777216) && decide (p.slotSize % 4096 = 0)
    && decide (2 ≤ p.slotCount) && decide (p.slotCount ≤ 256)
    && decide (p.browseBase + p.slotCount * p.slotSize ≤ 2 ^ 40)
    && [2, 4, 8].contains p.decimation && decide (p.legalClamp ≤ 1) && decide (p.rateCode ≤ 5)
    && decide (p.priority ≤ 3) && decide (p.lossTimeout ≤ 1000)

/-- The definition that parameters in range give (R112). -/
def FeedParams.toDef (p : FeedParams) : FeedDef :=
  { tag := p.tag, ingestBase := BitVec.ofNat 40 p.ingestBase, ingestSize := p.ingestSize,
    browseBase := BitVec.ofNat 40 p.browseBase, slotSize := p.slotSize, slotCount := p.slotCount,
    decimation := p.decimation, legalClamp := decide (p.legalClamp = 1), rateCode := p.rateCode,
    priority := p.priority, lossTimeout := p.lossTimeout }

/-- The address test of an ingest ring: its base, and a mask with ones from bit log2(size) up (R134). -/
def FeedParams.ingestWindow (p : FeedParams) : IngestWindow :=
  { base := BitVec.ofNat 40 p.ingestBase, mask := ~~~(BitVec.ofNat 40 (p.ingestSize - 1)) }

/-- The browse region, from its base to the last byte of its last slot (R110). -/
def FeedParams.browseRegion (p : FeedParams) : Region :=
  { base := BitVec.ofNat 40 p.browseBase,
    limit := BitVec.ofNat 40 (p.browseBase + p.slotCount * p.slotSize - 1) }

end Sys2Proof.Machine
end

