-- ==== Sys2Proof/Machine/RowStore.lean ====
section
/-! DEFINITION. The row store (chapter 4.1): the two row buffers of a feed, the row write list, and what becomes
of row writes at abandonment, discard and engine failure (R68 to R75, R79, R89). -/

namespace Sys2Proof.Machine

/-! ### Row buffers

A buffer's 4096 bytes are a list of (offset, byte) cells in one canonical form: offsets strictly rising
below 4096, and no cell holding 0, which is what an unlisted offset reads as (log 9). -/

/-- The canonical form of a buffer's cells. -/
def cellsWf (cells : List Host.Cell) : Bool :=
  decide ((cells.map Prod.fst).Pairwise (· < ·)) && cells.all fun c => decide (c.1 < Config.bufferBytes ∧ c.2 ≠ 0)

/-- Reading one byte of a buffer. -/
def readCell (cells : List Host.Cell) (offset : Nat) : Byte :=
  match cells.find? fun c => c.1 = offset with
  | some c => c.2
  | none => 0

/-- Reading `n` bytes of a buffer. -/
def readCells (cells : List Host.Cell) (offset n : Nat) : List Byte :=
  (List.range n).map fun i => readCell cells (offset + i)

/-- The cells of a row written from offset `base`. -/
def rowCells (base : Nat) : List Byte → List Host.Cell
  | [] => []
  | b :: rest => if b = 0 then rowCells (base + 1) rest else (base, b) :: rowCells (base + 1) rest

/-- Writing a row into a buffer: its bytes from offset 0, the bytes beyond it kept (R62, R67). -/
def writeRow (row : List Byte) (cells : List Host.Cell) : List Host.Cell :=
  rowCells 0 (row.take Config.bufferBytes)
    ++ cells.filter fun c => decide ((row.take Config.bufferBytes).length ≤ c.1)

/-- A row buffer of a feed. -/
def RowStore.buffer (r : RowStore) : BufferId → RowBuffer
  | .zero => r.buffer0
  | .one => r.buffer1

/-- The row store with one buffer replaced. -/
def RowStore.setBuffer (r : RowStore) (b : BufferId) (x : RowBuffer) : RowStore :=
  match b with
  | .zero => { r with buffer0 := x }
  | .one => { r with buffer1 := x }

/-- The buffer that is not the one named. -/
def BufferId.other : BufferId → BufferId
  | .zero => .one
  | .one => .zero

/-- The buffer a computed or neutral row takes, or none where neither is free (R62). -/
def chooseBuffer (r : RowStore) (reference : Option BufferId) : Option BufferId :=
  if r.buffer0.useCount = 0 then
    if r.buffer1.useCount = 0 then
      some (match reference with
        | none => .zero
        | some b => b.other)
    else some .zero
  else if r.buffer1.useCount = 0 then some .one
  else none

/-! ### Row write list items -/

/-- The parts of a row at a slot offset: one, or two where the row crosses a 4 KiB boundary (R70). -/
def rowParts (slotOffset pitch : Nat) : List RowPart :=
  let within := slotOffset % Config.blockBytes
  if Config.blockBytes - pitch < within then
    [{ index := 0, offset := 0, length := Config.blockBytes - within, state := .waiting },
     { index := 1, offset := Config.blockBytes - within, length := pitch - (Config.blockBytes - within),
       state := .waiting }]
  else [{ index := 0, offset := 0, length := pitch, state := .waiting }]

/-- Every part left in the item is ANSWERED: the row write ends (R69, R72, R75, R89). -/
def RowItem.ended (i : RowItem) : Bool := i.parts.all fun p => decide (p.state = .answered)

/-- The item with the state of one of its parts replaced. -/
def RowItem.setPart (index : Nat) (x : PartState) (i : RowItem) : RowItem :=
  { i with parts := i.parts.map fun p => if p.index = index then { p with state := x } else p }

/-- The item without one of its parts. -/
def RowItem.dropPart (index : Nat) (i : RowItem) : RowItem :=
  { i with parts := i.parts.filter fun p => decide (p.index ≠ index) }

/-- Dealing with a part at abandonment or discard: a WAITING or QUEUED one is dropped, an ISSUED one
becomes ORPHANED (R74). -/
def dealPart (p : RowPart) : Option RowPart :=
  match p.state with
  | .waiting | .queued => none
  | .issued => some { p with state := .orphaned }
  | .answered | .orphaned => some p

/-- Dealing with an item (R74): with an ORPHANED part its standing is ORPHANED. -/
def dealItem (i : RowItem) : RowItem :=
  let parts := i.parts.filterMap dealPart
  { i with parts := parts,
           standing := if parts.any fun p => decide (p.state = .orphaned) then .orphaned else i.standing }

/-- An item when the engine fails: its QUEUED parts are dropped (R89). -/
def failItem (i : RowItem) : RowItem :=
  { i with parts := i.parts.filter fun p => decide (p.state ≠ .queued) }

/-- The use count of a buffer after the items that ended leave the list (R69). -/
def lowerUse (gone : List RowItem) (b : BufferId) (x : RowBuffer) : RowBuffer :=
  { x with useCount := x.useCount - gone.countP fun i => decide (i.buffer = b) }

/-- The items whose write has ended leave the list, and their buffers' use counts fall (R69). -/
def RowStore.sweep (r : RowStore) : RowStore :=
  let gone := r.items.filter RowItem.ended
  { buffer0 := lowerUse gone .zero r.buffer0, buffer1 := lowerUse gone .one r.buffer1,
    items := r.items.filter fun i => !i.ended }

/-- The row store with the items that `which` names changed, and those that ended gone. -/
def RowStore.change (which : RowItem → Bool) (g : RowItem → RowItem) (r : RowStore) : RowStore :=
  RowStore.sweep { r with items := r.items.map fun i => if which i then g i else i }

/-- An item is the one a row reference names. -/
def RowRef.names (ref : RowRef) (i : RowItem) : Bool := decide (i.ident = ref.item)

/-- The row store with one part's state replaced, its item kept. -/
def RowStore.markPart (ref : RowRef) (x : PartState) (r : RowStore) : RowStore :=
  { r with items := r.items.map fun i => if ref.names i then i.setPart ref.part x else i }

/-- An insertion entry writes a part of an item that `which` names, for feed `f`. -/
def rowEntryOf (f : FeedId) (items : List RowItem) (e : InsEntry) : Bool :=
  decide (e.source = .feed f) && decide (e.kind = .row) &&
    (match e.row with
     | none => false
     | some ref => items.any fun i => ref.names i)

/-! ### Queueing row parts (R71) -/

/-- The oldest WAITING part of a feed's list, with its item. -/
def oldestWaiting : List RowItem → Option (RowItem × RowPart)
  | [] => none
  | i :: rest =>
    match i.parts.find? fun p => p.state = .waiting with
    | some p => some (i, p)
    | none => oldestWaiting rest

/-- The entry of a row part (R70, R154, R155). -/
def rowDraft (f : FeedId) (i : RowItem) (p : RowPart) : EntryDraft :=
  { source := .feed f, kind := .row, row := some { item := i.ident, part := p.index },
    addr := i.addr + BitVec.ofNat 40 p.offset, length := p.length, lanes := .all,
    data := .buffer i.buffer p.offset }

/-- An entry is made for the oldest WAITING part where the row quota has room and the engine is NORMAL;
the part becomes QUEUED (R71). -/
def queueRowPart (f : FeedId) (s : State) : State :=
  match oldestWaiting (s.feed f).rows.items with
  | none => s
  | some (i, p) =>
    if s.normal && quotaRoom s.insQ (.feed f) .row then
      (makeEntry (rowDraft f i p) s).modFeed f fun x =>
        { x with rows := x.rows.markPart { item := i.ident, part := p.index } .queued }
    else s

/-- ROW_PART_QUEUE (R71). -/
def execRowPartQueue (f : FeedId) (s : State) : Host.Outcome State Fault Refusal := .next (queueRowPart f s)

end Sys2Proof.Machine
end

