-- ==== Sys2Proof/Machine/Reducer.lean ====
section
/-! DEFINITION. The band reducer (chapter 3): line sums, band sums, the row of a band, its buffer and its
hand-off to the row store, and the abandonment of a frame's browse (R50 to R66, R73, R74). -/

namespace Sys2Proof.Machine

/-! ### Sums -/

/-- Every sum of a list set to 0. -/
def zeroSums (sums : List Nat) : List Nat := sums.map fun _ => 0

/-- The luma line sum of the word with index `x` (R52). -/
def lumaPlace (d x : Nat) : Nat := x / d

/-- The chroma line sum of the word with index `k` (R53). -/
def chromaPlace (d k : Nat) : Nat := 2 * (k / 2 / d) + k % 2

/-- REDUCING from band 0, with W/D sums of each kind, all 0 (R51). -/
def startReducer (sums : Nat) : Reducer :=
  { mode := .reducing, band := 0, count := 0, line := none, lineLuma := List.replicate sums 0,
    lineChroma := List.replicate sums 0, bandLuma := List.replicate sums 0,
    bandChroma := List.replicate sums 0, reference := none }

/-- Leaving REDUCING: the line number and the reference absent, every sum 0 (R66, log 20). -/
def Reducer.leave (r : Reducer) : Reducer :=
  { r with mode := .idle, line := none, lineLuma := [], lineChroma := [], bandLuma := [], bandChroma := [],
           reference := none }

/-- The line a word belongs to is held: an absent line number takes it, and the line sums start at 0 (R52). -/
def Reducer.holdLine (line : Nat) (r : Reducer) : Reducer :=
  match r.line with
  | some _ => r
  | none => { r with line := some line, lineLuma := zeroSums r.lineLuma, lineChroma := zeroSums r.lineChroma }

/-- A word of a used line: position `word` of the line, the first `w` of which are luma (R52, R53). -/
def Reducer.addWord (d w line word sample : Nat) (r : Reducer) : Reducer :=
  match r.mode with
  | .idle => r
  | .reducing =>
    let h := r.holdLine line
    if word < w then { h with lineLuma := h.lineLuma.modify (lumaPlace d word) (· + sample) }
    else { h with lineChroma := h.lineChroma.modify (chromaPlace d (word - w)) (· + sample) }

/-- A line-discard event while REDUCING (R55). -/
def Reducer.dropLine (r : Reducer) : Reducer :=
  match r.mode with
  | .idle => r
  | .reducing => { r with line := none, lineLuma := zeroSums r.lineLuma, lineChroma := zeroSums r.lineChroma }

/-- The line held is added to the current band (R54). -/
def Reducer.addLine (r : Reducer) : Reducer :=
  { r with bandLuma := List.zipWith (· + ·) r.bandLuma r.lineLuma,
           bandChroma := List.zipWith (· + ·) r.bandChroma r.lineChroma,
           count := r.count + 1, line := none }

/-- The reducer after band b: the next band with nothing in it, or IDLE after the last (R56). -/
def Reducer.nextBand (bands : Nat) (r : Reducer) : Reducer :=
  if r.band + 1 = bands then r.leave
  else { r with band := r.band + 1, count := 0, bandLuma := zeroSums r.bandLuma, bandChroma := zeroSums r.bandChroma }

/-! ### Values and rows -/

/-- The value of a band sum over `n` lines, rounded half up and saturated (R57, R58). -/
def bandValue (d n sum : Nat) : Nat := min 255 ((sum + 2 * d * n) / (4 * d * n))

/-- The legal clamp of one value, to `lo` to `hi` (R59). -/
def legalValue (clamp : Bool) (lo hi v : Nat) : Nat := if clamp then max lo (min hi v) else v

/-- A browse row: luma, chroma and zero pad up to the pitch (R63). -/
def rowBytes (pitch : Nat) (luma chroma : List Nat) : List Byte :=
  (luma ++ chroma).map (BitVec.ofNat 8) ++ zeros (pitch - (luma.length + chroma.length))

/-- The computed row of a band with `n` lines (R57 to R59). -/
def computedRow (p : FeedDef) (w n : Nat) (luma chroma : List Nat) : List Byte :=
  rowBytes (rowPitch p.decimation w)
    (luma.map fun s => legalValue p.legalClamp 16 235 (bandValue p.decimation n s))
    (chroma.map fun s => legalValue p.legalClamp 16 240 (bandValue p.decimation n s))

/-- The neutral row: luma 16 and chroma 128 (R61). -/
def neutralRow (p : FeedDef) (w : Nat) : List Byte :=
  rowBytes (rowPitch p.decimation w) (List.replicate (w / p.decimation) 16) (List.replicate (w / p.decimation) 128)

/-- The row of the reducer's current band, where it is not a hold row (R57, R61). -/
def bandRow (p : FeedDef) (w : Nat) (r : Reducer) : List Byte :=
  if r.count = 0 then neutralRow p w else computedRow p w r.count r.bandLuma r.bandChroma

/-! ### The open record -/

/-- The record of the open frame (R28). -/
def Feed.openRecord (x : Feed) : Option FrameRecord := x.frame.records.find? fun r => r.state = .opened

/-- The feed with its open record changed. -/
def Feed.onOpen (g : FrameRecord → FrameRecord) (x : Feed) : Feed :=
  { x with frame := { x.frame with
      records := x.frame.records.map fun r => if r.state = .opened then g r else r } }

/-- The address of the row of a band in a slot (R63). -/
def rowAddr (p : FeedDef) (slot pitch band : Nat) : Addr :=
  p.browseBase + BitVec.ofNat 40 (slot * p.slotSize + 64 + band * pitch)

/-! ### Handing rows and abandoning (R60 to R64, R73) -/

/-- The item of a row handed to the row store (R64, R68). -/
def rowItem (ident : Nat) (p : FeedDef) (r : FrameRecord) (slot band : Nat) (b : BufferId) : RowItem :=
  let pitch := rowPitch p.decimation r.width
  { ident := ident, serial := r.serial, band := band, buffer := b, addr := rowAddr p slot pitch band,
    length := pitch, parts := rowParts (64 + band * pitch) pitch, standing := .live }

/-- The row of the current band, in buffer `b`, is handed to the row store; rows queued increases (R64). -/
def handRow (f : FeedId) (r : FrameRecord) (slot : Nat) (b : BufferId) (s : State) : State :=
  let x := s.feed f
  let item := rowItem s.nextRowId x.params r slot x.reducer.band b
  let s' := s.setFeed f <| Feed.onOpen (fun q => { q with rowsQueued := q.rowsQueued + 1 })
    { x with rows := { x.rows with items := x.rows.items ++ [item] },
             reducer := x.reducer.nextBand (r.height / x.params.decimation) }
  { s' with nextRowId := s.nextRowId + 1 }

/-- A buffer takes a computed or neutral row and one use, and becomes the reference (R62). -/
def fillBuffer (b : BufferId) (row : List Byte) (x : Feed) : Feed :=
  { x with rows := x.rows.setBuffer b { useCount := 1, cells := writeRow row (x.rows.buffer b).cells },
           reducer := { x.reducer with reference := some b } }

/-- A buffer takes one more use, for a hold row (R60). -/
def holdBuffer (b : BufferId) (x : Feed) : Feed :=
  { x with rows := x.rows.setBuffer b { x.rows.buffer b with useCount := (x.rows.buffer b).useCount + 1 } }

/-- The abandonment of the open frame's browse (R73, R74): the record loses its slot, its row writes are
dealt with, A decreases by one and the reducer leaves REDUCING. -/
def abandon (f : FeedId) (r : FrameRecord) (s : State) : State :=
  let mine : RowItem → Bool := fun i => decide (i.serial = r.serial)
  (withdraw (rowEntryOf f ((s.feed f).rows.items.filter mine)) s).modFeed f fun x =>
    Feed.onOpen (fun q => { q with reason := .abandoned, slot := none })
      { x with rows := x.rows.change mine dealItem,
               publisher := { x.publisher with assigned := x.publisher.assigned - 1 },
               reducer := x.reducer.leave }

/-- The current band completes: a hold row, or a computed or neutral row in a free buffer, or abandonment
(R56, R60 to R62). -/
def completeBand (f : FeedId) (s : State) : State :=
  let x := s.feed f
  match x.openRecord with
  | none => s
  | some r =>
    match r.slot with
    | none => s
    | some slot =>
      if x.reducer.count = 0 ∧ x.reducer.band ≠ 0 then
        match x.reducer.reference with
        | none => s
        | some b => handRow f r slot b (s.modFeed f (holdBuffer b))
      else
        match chooseBuffer x.rows x.reducer.reference with
        | none => abandon f r s
        | some b => handRow f r slot b (s.modFeed f (fillBuffer b (bandRow x.params r.width x.reducer)))

/-- The reducer of a feed is REDUCING. -/
def Feed.reducing (x : Feed) : Bool := decide (x.reducer.mode = .reducing)

/-- Up to `k` bands complete one after another, none after an abandonment (R54, R56, R65). -/
def completeBands (f : FeedId) : Nat → State → State
  | 0, s => s
  | k + 1, s => if (s.feed f).reducing then completeBands f k (completeBand f s) else s

/-- A line-complete event for a used line (R54). -/
def reduceLine (f : FeedId) (line : Nat) (s : State) : State :=
  let x := s.feed f
  let s' := completeBands f (line / x.params.decimation - x.reducer.band) s
  if (s'.feed f).reducing then s'.modFeed f fun y => { y with reducer := y.reducer.addLine } else s'

/-- The bands not yet completed complete at the frame's close, up to band H/D − 1; a partial line is dropped
first (R65). -/
def closeBands (f : FeedId) (height : Nat) (s : State) : State :=
  let s' := s.modFeed f fun y => { y with reducer := y.reducer.dropLine }
  completeBands f (height / (s.feed f).params.decimation - (s.feed f).reducer.band) s'

end Sys2Proof.Machine
end

