-- ==== Sys2Proof/Machine/Frames.lean ====
section
/-! DEFINITION. The frame unit and the browse publisher (chapters 2 and 4.3 to 4.7): opening a frame, the browse
decision, the timecode check, lines and audio, closing, and the way of a record from CLOSED to DONE. -/

namespace Sys2Proof.Machine

/-! ### Timecode (R33 to R35) -/

/-- Frames per second of a rate code (R33). -/
def rateOf (code : Nat) : Nat := [24, 25, 30, 30, 50, 60].getD code 0

/-- The rate code counts drop-frame (R33). -/
def dropFrame (code : Nat) : Bool := decide (code = 3)

/-- A timecode is valid for a rate code (R33). -/
def timecodeValid (code : Nat) (t : Timecode) : Bool :=
  decide (t.hours.toNat ≤ 23) && decide (t.minutes.toNat ≤ 59) && decide (t.seconds.toNat ≤ 59)
    && decide (t.frames.toNat < rateOf code)
    && !(dropFrame code && decide (t.seconds = 0) && decide (t.frames.toNat ≤ 1)
          && decide (t.minutes.toNat % 10 ≠ 0))

/-- A timecode advanced by one frame (R34). -/
def advanceTimecode (code : Nat) (t : Timecode) : Timecode :=
  let fr := t.frames.toNat + 1
  let (fr, se) := if fr = rateOf code then (0, t.seconds.toNat + 1) else (fr, t.seconds.toNat)
  let (se, mi) := if se = 60 then (0, t.minutes.toNat + 1) else (se, t.minutes.toNat)
  let (mi, ho) := if mi = 60 then (0, t.hours.toNat + 1) else (mi, t.hours.toNat)
  let ho := if ho = 24 then 0 else ho
  let fr := if dropFrame code && decide (se = 0) && decide (fr = 0) && decide (mi % 10 ≠ 0) then 2 else fr
  { frames := BitVec.ofNat 8 fr, seconds := BitVec.ofNat 8 se, minutes := BitVec.ofNat 8 mi,
    hours := BitVec.ofNat 8 ho }

/-- What the timecode check gives: the value stored, the flag, and the next expectation (R35). -/
structure TimecodeCheck where
  stored : Timecode
  flag : Option Condition
  expected : Option Timecode
  deriving DecidableEq, Repr

/-- The timecode check (R35). -/
def checkTimecode (code : Nat) (expected : Option Timecode) (incoming : Timecode) : TimecodeCheck :=
  if timecodeValid code incoming then
    let flag := match expected with
      | some e => if e = incoming then none else some .tcJump
      | none => none
    { stored := incoming, flag := flag, expected := some (advanceTimecode code incoming) }
  else
    match expected with
    | some e => { stored := e, flag := some .tcSubstituted, expected := some (advanceTimecode code e) }
    | none => { stored := incoming, flag := some .tcInvalid, expected := none }

/-! ### The browse decision (R32, R67, R78) -/

/-- The geometry is usable (R32, step 2). -/
def geometryUsable (d w h : Nat) : Bool :=
  decide (64 ≤ w) && decide (w ≤ 4096) && decide (w % (2 * d) = 0)
    && decide (16 ≤ h) && decide (h ≤ 4096) && decide (h % d = 0)

/-- The bytes of a browse frame (R67). -/
def browseSize (d w h : Nat) : Nat := 64 + rowPitch d w * (h / d)

/-- The browse ring is full: A less R equals the slot count (R78). -/
def ringFull (x : Feed) : Bool :=
  decide ((x.publisher.assigned - x.publisher.released).toNat = x.params.slotCount)

/-- The browse reason of a tracked OPEN: the first that applies (R32). -/
def browseReason (x : Feed) (w h : Nat) : BrowseReason :=
  if x.life.state = .suspended then .suspended
  else if !geometryUsable x.params.decimation w h then .geometry
  else if x.params.slotSize < browseSize x.params.decimation w h then .slotSize
  else if ringFull x then .ringFull
  else .none

/-- The slot the next frame with browse is given (R78). -/
def nextSlot (x : Feed) : Nat := x.publisher.assigned.toNat % x.params.slotCount

/-! ### From CLOSED to DONE (R44 to R46, R80, R81, R88, R93) -/

/-- A record is ready (R44). -/
def FrameRecord.ready (r : FrameRecord) : Bool :=
  decide (r.state = .closed) && (r.slot.isNone || decide (r.rowsAnswered = r.rowsQueued))

/-- The address of a slot (R78). -/
def slotAddr (p : FeedDef) (slot : Nat) : Addr := p.browseBase + BitVec.ofNat 40 (slot * p.slotSize)

/-- The index record of a record that is DONE, all but the count the writer fills (R88, R93). -/
def indexRecord (f : FeedId) (p : FeedDef) (r : FrameRecord) : IndexRecord :=
  { feed := f, tag := p.tag, conditions := r.conditions, serial := r.serial, timecode := r.timecode,
    reason := r.reason, untrackedBefore := r.untrackedBefore, lostBefore := 0, openTime := r.openTime,
    ingestAddr := r.ingestAddr, frameLength := r.frameLength, linesMissing := r.linesMissing,
    sequenceGaps := r.sequenceGaps, slotAddr := r.slot.map (slotAddr p),
    peaks := r.peaks.map (· / 128) }

/-- The counter a record counts when it is DONE: frames published with browse, browse absent without
(R46, R81, R128). -/
def countDone (r : FrameRecord) (c : Counters) : Counters :=
  if r.slot.isSome then { c with framesPublished := bump c.framesPublished 1 }
  else { c with browseAbsent := bump c.browseAbsent 1 }

/-- The head record is DONE: it is counted, leaves the list, and its index record goes to the catalogue
writer (R46). -/
def finishHead (f : FeedId) (r : FrameRecord) (rest : List FrameRecord) (s : State) : State :=
  stageIndex (indexRecord f (s.feed f).params r) <| s.modFeed f fun x =>
    Feed.count (countDone r) { x with frame := { x.frame with records := rest } }

/-- The browse header's entry (R80, R154). -/
def headerDraft (f : FeedId) (p : FeedDef) (slot : Nat) (r : FrameRecord) : EntryDraft :=
  { source := .feed f, kind := .header, row := none, addr := slotAddr p slot, length := 64, lanes := .all,
    data := .fixed (headerBytes f p r) }

/-- The head record's header is queued and it becomes SEALING (R45, R80). -/
def sealHead (f : FeedId) (r : FrameRecord) (rest : List FrameRecord) (slot : Nat) (s : State) : State :=
  (makeEntry (headerDraft f (s.feed f).params slot r) s).modFeed f fun x =>
    { x with frame := { x.frame with records := { r with state := .sealing } :: rest } }

/-- The head record, and each one that becomes the head, is acted on while it is ready: without browse it is
DONE, with browse it is sealed (R45, R46). The number bounds the records acted on. -/
def settle (f : FeedId) : Nat → State → State
  | 0, s => s
  | k + 1, s =>
    match (s.feed f).frame.records with
    | [] => s
    | r :: rest =>
      if r.ready then
        match r.slot with
        | none => settle f k (finishHead f r rest s)
        | some slot => sealHead f r rest slot s
      else s

/-- Acting on the ready records at the head of a feed's list (R45). -/
def settleFeed (f : FeedId) (s : State) : State := settle f (s.feed f).frame.records.length s

/-- The header of a feed answered without error: P moves, the publish word is brought up to date, the
SEALING head is DONE and the records behind it may follow (R81). -/
def headerAnswered (f : FeedId) (s : State) : State :=
  match (s.feed f).frame.records with
  | [] => s
  | r :: rest =>
    if r.state = .sealing then
      let moved := updateWord (.publish f) <| s.modFeed f fun x =>
        { x with publisher := { x.publisher with published := x.publisher.published + 1 } }
      settleFeed f (finishHead f r rest moved)
    else s

/-! ### Lines, audio and lengths (R37 to R41) -/

/-- Ingest bytes consumed or scanned count toward the open record's frame length (R41). -/
def countLength (n : Nat) (x : Feed) : Feed :=
  if x.frame.openFrame = .tracked then
    x.onOpen fun r => { r with frameLength := satAdd Config.counterLimit r.frameLength n }
  else x

/-- The feed's tracked open frame with a flag set; an untracked one has no record (R11, R30). -/
def flagOpen (c : Condition) (x : Feed) : Feed :=
  if x.frame.openFrame = .tracked then x.onOpen (FrameRecord.flag c) else x

/-- The LINES test of a tracked frame (R37): the disposition and the record's flags. -/
def linesTest (h : EssenceHeader) (r : FrameRecord) : Disposition × FrameRecord :=
  if !linesWellFormed r.width h then (.skip, r.flag .malformed)
  else if (match r.lastLine with
      | some last => decide (h.a ≤ last)
      | none => false) then (.skip, r.flag .disorder)
  else (.lines h.a h.b 0, r.flagIf (decide (r.height ≤ h.a + h.b - 1)) .range)

/-- The AUDIO test of a tracked frame (R39). -/
def audioTest (h : EssenceHeader) (r : FrameRecord) : Disposition × FrameRecord :=
  if audioWellFormed h then (.audio h.a (h.a * h.b) 0, r) else (.skip, r.flag .audioMalformed)

/-- The magnitude of a signed 24-bit sample (R39). -/
def magnitude (x : Int) : Nat := min x.natAbs 8388607

/-- A sample metered on a channel of the peak set (R39). -/
def meter (peaks : Vector Nat 8) (channel : Nat) (x : Int) : Vector Nat 8 :=
  peaks.mapFinIdx fun i p _ => if i = channel then max p (magnitude x) else p

/-- A line is received at its line-complete event, where it lies below H (R38). -/
def receiveLine (line : Nat) (r : FrameRecord) : FrameRecord :=
  { r with linesReceived := r.linesReceived + 1, lastLine := some line }

/-- A line-complete event (R22, R38): a line below H is received, and reduced while the frame has browse. -/
def completeLine (f : FeedId) (line : Nat) (r : FrameRecord) (s : State) : State :=
  if line < r.height then
    let s' := s.modFeed f (Feed.onOpen (receiveLine line))
    if r.reason = .none then reduceLine f line s' else s'
  else s

/-! ### The parser's stop (R7, R25) -/

/-- A partly parsed line of the packet in progress is discarded (R25, R55). -/
def discardLine (x : Feed) : Feed :=
  match x.parse.packet with
  | some { kind := _, disposition := .lines _ _ word } =>
    if 0 < word then { x with reducer := x.reducer.dropLine } else x
  | _ => x

/-- A feed whose parse context has become IDLE (R7, R26, R147). -/
def idleFeed (x : Feed) : Feed :=
  let y := discardLine x
  { y with parse := { y.parse with state := .idle, residue := 0, packet := none, budget := 0 },
           frame := { y.frame with retirePending := false }, missPending := false }

/-- A feed's parse context becomes IDLE, and its tap entries are purged (R7, R148). -/
def stopParser (f : FeedId) (s : State) : State :=
  { s.modFeed f idleFeed with tapQ := s.tapQ.filter fun e => decide (e.feed ≠ f) }

/-! ### Closing (R41, R42) -/

/-- The causes of a close (R41). -/
inductive CloseCause where
  | close | noClose | lost
  deriving DecidableEq, Repr

/-- The record at its close, steps 1 to 3 of R42. -/
def closingRecord (cause : CloseCause) (peaks : Vector Nat 8) (r : FrameRecord) : FrameRecord :=
  let flagged := match cause with
    | .close => r
    | .noClose => r.flag .noClose
    | .lost => r.flag .lost
  let missing := r.height - r.linesReceived
  FrameRecord.flagIf (decide (missing ≠ 0)) .linesMissing
    { flagged with linesMissing := missing, peaks := peaks }

/-- The close of a tracked frame (R42). -/
def closeTracked (f : FeedId) (cause : CloseCause) (s : State) : State :=
  let x := s.feed f
  let marked := s.setFeed f (x.onOpen (closingRecord cause x.frame.peaks))
  let banded := match x.openRecord with
    | some r => if r.slot.isSome && x.reducing then closeBands f r.height marked else marked
    | none => marked
  settleFeed f <| banded.modFeed f fun y =>
    let z := y.onOpen fun r => { r with state := .closed }
    { z with frame := { z.frame with openFrame := .none } }

/-- The close of the open frame, tracked or untracked; where retire pending is set the parse context then
becomes IDLE (R42). -/
def closeFrame (f : FeedId) (cause : CloseCause) (s : State) : State :=
  let retiring := (s.feed f).frame.retirePending
  match (s.feed f).frame.openFrame with
  | .none => s
  | .tracked =>
    let s' := closeTracked f cause s
    if retiring then stopParser f s' else s'
  | .untracked =>
    let s' := s.modFeed f fun x => { x with frame := { x.frame with openFrame := .none } }
    if retiring then stopParser f s' else s'

/-! ### Opening (R29 to R32) -/

/-- The record a tracked OPEN appends (R31). -/
def newRecord (serial : Count) (tc : TimecodeCheck) (stamp : Time) (addr : Addr) (h : EssenceHeader)
    (reason : BrowseReason) (slot : Option Nat) (untracked : Nat) : FrameRecord :=
  { serial := serial, timecode := tc.stored, openTime := stamp, ingestAddr := addr, frameLength := 32,
    width := h.b, height := h.c, slot := slot, reason := reason, rowsQueued := 0, rowsAnswered := 0,
    linesReceived := 0, lastLine := none, linesMissing := 0,
    conditions := (match tc.flag with
      | some c => setCondition c 0
      | none => 0),
    sequenceGaps := 0, peaks := Vector.replicate 8 0, untrackedBefore := untracked, state := .opened }

/-- Steps 3 to 5 of R29: the frame takes the next serial, the peak set is zeroed and the timecode is
checked. -/
def openSerial (tc : TimecodeCheck) (x : Feed) : Feed :=
  Feed.count (fun c => { c with framesOpened := bump c.framesOpened 1 })
    { x with frame := { x.frame with nextSerial := x.frame.nextSerial + 1,
                                     peaks := Vector.replicate 8 0, expectedTimecode := tc.expected } }

/-- An untracked frame opens (R30). -/
def openUntracked (x : Feed) : Feed :=
  Feed.count (fun c => { c with untrackedFrames := bump c.untrackedFrames 1 })
    { x with frame := { x.frame with openFrame := .untracked,
                                     untrackedBefore := satAdd 255 x.frame.untrackedBefore 1 } }

/-- A tracked frame opens: its record is appended with the browse decision, and with browse A increases and
the reducer starts (R31, R32, R51, R78). -/
def openTracked (serial : Count) (tc : TimecodeCheck) (stamp : Time) (addr : Addr) (h : EssenceHeader)
    (x : Feed) : Feed :=
  let reason := browseReason x h.b h.c
  let slot := if reason = .none then some (nextSlot x) else none
  let r := newRecord serial tc stamp addr h reason slot x.frame.untrackedBefore
  { x with frame := { x.frame with openFrame := .tracked, untrackedBefore := 0, records := x.frame.records ++ [r] },
           publisher := if reason = .none then { x.publisher with assigned := x.publisher.assigned + 1 }
             else x.publisher,
           reducer := if reason = .none then startReducer (h.b / x.params.decimation) else x.reducer }

/-- A frame opens, tracked where the list has room (R29, steps 3 to 6). -/
def openFrame (stamp : Time) (addr : Addr) (h : EssenceHeader) (x : Feed) : Feed :=
  let tc := checkTimecode x.params.rateCode x.frame.expectedTimecode h.timecode
  let y := openSerial tc x
  if y.frame.records.length < Config.recordCapacity then openTracked x.frame.nextSerial tc stamp addr h y
  else openUntracked y

/-- The OPEN hand-off (R29): an open frame closes with NO CLOSE; under retire pending no frame opens. -/
def handOpen (f : FeedId) (stamp : Time) (addr : Addr) (h : EssenceHeader) (s : State) : State :=
  let retiring := (s.feed f).frame.retirePending
  let s' := closeFrame f .noClose s
  if retiring then s' else s'.modFeed f (openFrame stamp addr h)

end Sys2Proof.Machine
end

