-- ==== Sys2Proof/Machine/Notices.lean ====
section
/-! DEFINITION. The notice writer (chapter 9.1 and 9.4): the write test and the notice entry (R181), staging (R180),
which the test follows, the entry's answer (R182) and the notice consumer word (R172). -/

namespace Sys2Proof.Machine

/-! ### The write test (R181) -/

/-- A notice entry is in the insertion queue (R181). -/
def noticeInQueue (q : List InsEntry) : Bool := q.any fun e => decide (e.kind = .notice)

/-- The conditions of the notice write test (R181). -/
def noticeReady (s : State) : Bool :=
  !s.notices.staging.isEmpty && !noticeInQueue s.insQ
    && decide ((s.notices.produced - s.notices.consumed).toNat < Config.noticeSlots) && s.normal

/-- The entry of a notice, at the slot of the present Pn (R154, R181). -/
def noticeDraft (n : Notice) (s : State) : EntryDraft :=
  { source := .notice, kind := .notice, row := none,
    addr := s.controlAddr (Config.noticeRingOffset + 32 * (s.notices.produced.toNat % Config.noticeSlots)),
    length := 32, lanes := .all, data := .fixed n.bytes }

/-- The notice writer's write test: where it passes, the head notice's entry is made (R181). Each step that raises one
of its events makes it: a notice staged, a notice answered, a change of Cn. -/
def makeNoticeEntry (s : State) : State :=
  if noticeReady s then
    match s.notices.staging with
    | [] => s
    | n :: _ => makeEntry (noticeDraft n s) s
  else s

/-! ### Staging (R180) -/

/-- A notice joins the staging queue's tail with the time and the lost-notice count, which becomes 0 (R180). -/
def appendNotice (body : NoticeBody) (s : State) : State :=
  { s with notices := { s.notices with
      staging := s.notices.staging ++ [{ time := s.timeBase, lost := s.notices.lost, body := body }],
      lost := 0 } }

/-- Staging a notice: it joins the queue, and the write test follows (R180, R181). -/
def stageNotice (body : NoticeBody) (s : State) : State := makeNoticeEntry (appendNotice body s)

/-- An event notice is staged; where the queue is full it is dropped and counted, and no test is made (R180). -/
def stageEvent (body : NoticeBody) (s : State) : State :=
  if s.noticeRoom then stageNotice body s
  else { s with notices := { s.notices with lost := satAdd 255 s.notices.lost 1 } }

/-! ### The answer and the consumer word (R172, R182) -/

/-- A notice answered without error: Pn moves, the notice leaves staging, the notice word is brought up to date, and
the write test is made, in this order (R182). -/
def noticeAnswered (s : State) : State :=
  makeNoticeEntry <| updateWord .notice { s with notices := { s.notices with
    produced := s.notices.produced + 1, staging := s.notices.staging.tail } }

/-- A notice consumer value; where Cn changes, the write test is made (R172, R181). -/
def noticeConsumer (v : Count) (s : State) : State :=
  if countTaken v s.notices.consumed s.notices.produced then
    makeNoticeEntry { s with notices := { s.notices with consumed := v } }
  else s

/-- NOTICE_ENTRY_MAKE: the write test as a step of its own (R181, log 5). -/
def execNoticeEntryMake (s : State) : Host.Outcome State Fault Refusal := .next (makeNoticeEntry s)

end Sys2Proof.Machine
end

