-- ==== Sys2Proof/Machine/Lifecycle.lean ====
section
/-! DEFINITION. The feed lifecycle (chapter 6): presence (R115 to R118), the discard of a feed's records and writes
(R47, R79), feed faults (R124, R125), the drain exit (R123), and the engine's entry into CONTROL PATH FAILED
(R187). -/

namespace Sys2Proof.Machine

/-! ### Presence (R115 to R118) -/

/-- An arrival for a feed: the last arrival time moves and presence becomes PRESENT; an ABSENT feed is
restored with a notice (R115, R117). -/
def arrival (f : FeedId) (stamp : Time) (s : State) : State :=
  let s' := s.modFeed f fun x =>
    { x with life := { x.life with lastArrival := stamp, presence := .present } }
  if (s.feed f).life.presence = .absent then stageEvent (.feedRestored f stamp) s' else s'

/-- The loss timeout of a feed has expired (R116). -/
def lossExpired (f : FeedId) (s : State) : Bool :=
  let x := s.feed f
  decide (x.life.presence = .present) && x.running && decide (x.params.lossTimeout ≠ 0)
    && decide (x.params.lossTimeout * 1000 ≤ s.timeBase.toNat - x.life.lastArrival.toNat)

/-- A delivering payload is turned to SKIP, its partly parsed line discarded (R25, R43). -/
def skipPayload (x : Feed) : Feed :=
  let y := discardLine x
  match y.parse.packet with
  | some { kind := k, disposition := .lines _ _ _ }
  | some { kind := k, disposition := .audio _ _ _ } =>
    { y with parse := { y.parse with packet := some { kind := k, disposition := .skip } } }
  | _ => y

/-- The loss close of a feed: nothing where no frame is open (R43). -/
def lossClose (f : FeedId) (s : State) : State :=
  if (s.feed f).frame.openFrame = .none then s else closeFrame f .lost (s.modFeed f skipPayload)

/-- The serial FEED LOST names: the open frame's, tracked or untracked, which is the one consumed last; none where no
frame is open (R29, R116). That R30 does not forbid an untracked frame's is DEDUCED (log 21). -/
def lostSerial (x : Feed) : Option Count :=
  match x.frame.openFrame with
  | .none => none
  | .tracked | .untracked => some (x.frame.nextSerial - 1)

/-- The expiry of a feed's loss timeout (R116). -/
def expireLoss (f : FeedId) (s : State) : State :=
  let x := s.feed f
  stageEvent (.feedLost f x.life.lastArrival (lostSerial x)) <| lossClose f <| s.modFeed f fun y =>
    { y with life := { y.life with presence := .absent } }

/-- LOSS_TIMEOUT_EXPIRY (R116). -/
def execLossTimeoutExpiry (f : FeedId) (s : State) : Host.Outcome State Fault Refusal :=
  .next (if lossExpired f s then expireLoss f s else s)

/-! ### Discard and fault (R47, R79, R125) -/

/-- A feed has a publish-word entry in the insertion queue. -/
def hasPublishEntry (f : FeedId) (q : List InsEntry) : Bool := q.any (WordId.publish f).owns

/-- What a discard does to the feed itself: no record, no open frame, every row write dealt with, A at P, and
stale set where a publish-word entry was withdrawn (R47, R74, R79, R83). -/
def discardFeed (publishing : Bool) (x : Feed) : Feed :=
  { x with frame := { x.frame with records := [], openFrame := .none },
           rows := x.rows.change (fun _ => true) dealItem,
           publisher := { x.publisher with assigned := x.publisher.published, word := .none,
                                           stale := x.publisher.stale || publishing } }

/-- The records of a feed are discarded and its writes dealt with (R47, R79, R166). -/
def discardAll (f : FeedId) (s : State) : State :=
  (withdraw (fun e => decide (e.source = .feed f)) s).modFeed f (discardFeed (hasPublishEntry f s.insQ))

/-- The reducer of a feed leaves REDUCING (R66). -/
def idleReducer (x : Feed) : Feed := { x with reducer := x.reducer.leave }

/-- The lifecycle of a feed at a fault (R125, steps 1 and 5). -/
def faultLife (cause : FaultCause) (discarded : Nat) (l : Lifecycle) : Lifecycle :=
  { l with fault := some { first := cause, furtherBrowse := false },
           state := (match l.state with
             | .active | .suspended => .faulted
             | other => other),
           drain := (match l.state with
             | .draining => l.drain.map fun d => { d with discarded := satAdd 65535 d.discarded discarded }
             | _ => l.drain) }

/-- A feed fault, one event (R125). -/
def feedFault (f : FeedId) (cause : FaultCause) (s : State) : State :=
  let n := (s.feed f).frame.records.length
  let stopped := (stopParser f (discardAll f s)).modFeed f fun x =>
    idleReducer { x with life := faultLife cause n x.life }
  stageEvent (.feedFault f cause n) stopped

/-! ### The drain exit (R123) -/

/-- A DRAINING feed has nothing left in flight, and its notice has room (R123). -/
def drained (f : FeedId) (s : State) : Bool :=
  let x := s.feed f
  decide (x.life.state = .draining) && !x.running && x.frame.records.isEmpty && x.rows.items.isEmpty
    && s.insQ.all (fun e => decide (e.source ≠ .feed f)) && !ownsOrphan s.tags f && s.noticeRoom && s.normal

/-- A feed becomes VACANT: its windows leave the window table, its drain record is absent (R108, R123). -/
def vacate (x : Feed) : Feed :=
  { x with life := { x.life with state := .vacant, drain := none }, ingest := none, browse := none }

/-- The opcode byte of RETIRE FEED (11.1). -/
def retireOpcode : Byte := 0x06

/-- A DRAINING feed becomes VACANT and the COMMAND DONE of its RETIRE is staged (R123). -/
def exitDrain (f : FeedId) (s : State) : State :=
  match (s.feed f).life.drain with
  | none => s.modFeed f vacate
  | some d => stageNotice (.commandDone d.serial retireOpcode (feedByte f) .done d.discarded) (s.modFeed f vacate)

/-- DRAIN_EXIT (R123). -/
def execDrainExit (f : FeedId) (s : State) : Host.Outcome State Fault Refusal :=
  .next (if drained f s then exitDrain f s else s)

/-! ### Control path failure (R187) -/

/-- A feed when the engine fails: its context IDLE, its reducer IDLE, its QUEUED row parts dropped, a QUEUED
publish word forgotten (R47, R66, R89, R129, log 16). -/
def failFeed (x : Feed) : Feed :=
  let y := idleReducer (idleFeed x)
  { y with rows := y.rows.change (fun _ => true) failItem,
           publisher := { y.publisher with word := if y.publisher.word = .queued then .none else y.publisher.word } }

/-- The catalogue writer when the engine fails: a QUEUED batch is no longer in flight, a QUEUED word is
forgotten (R105). -/
def failCatalogue (issuedBatch : Bool) (c : Catalogue) : Catalogue :=
  { c with batch := if issuedBatch then c.batch else none,
           word := if c.word = .queued then .none else c.word }

/-- The command unit when the engine fails: a head in phase REPORTING or REPORTED is discarded (R188). -/
def failCommands (c : CommandUnit) : CommandUnit :=
  match c.phase with
  | .ready => c
  | .reporting | .reported => { queue := c.queue.tail, phase := .ready }

/-- The engine enters CONTROL PATH FAILED: one event across the part (R168, R187 to R189). -/
def enterFailed (s : State) : State :=
  let kept := s.insQ.filter fun e => !e.queued
  { s with
    engine := .controlPathFailed, insQ := kept, credit := 0, tapQ := [],
    feeds := s.feeds.map failFeed,
    catalogue := failCatalogue (kept.any fun e => decide (e.kind = .batch)) s.catalogue,
    commands := failCommands s.commands,
    notices := { s.notices with word := if s.notices.word = .queued then .none else s.notices.word } }

end Sys2Proof.Machine
end

