-- ==== Sys2Proof/Machine/ThroughPath.lean ====
section
/-! DEFINITION. The through-path (chapter 7) and the memory-side arbiter (chapter 8.4): acceptance, window
matching, taps and misses, the control-block snoop, the hazard hold, the forward issue and answer, the time
base and power-on reset. -/

namespace Sys2Proof.Machine

/-! ### The window table (R133, R134) -/

/-- An address lies in a region (R134). -/
def Region.holds (g : Region) (a : Addr) : Bool := decide (g.base.toNat ≤ a.toNat) && decide (a.toNat ≤ g.limit.toNat)

/-- An address lies in an ingest window (R134). -/
def IngestWindow.holds (w : IngestWindow) (a : Addr) : Bool := decide (a &&& w.mask = w.base)

/-- The bytes of an ingest window (R134). -/
def IngestWindow.size (w : IngestWindow) : Nat := (~~~w.mask).toNat + 1

/-- The bytes of a region. -/
def Region.size (g : Region) : Nat := g.limit.toNat + 1 - g.base.toNat

/-- An address lies in the control block (R134). -/
def inControl (s : State) (a : Addr) : Bool :=
  decide (s.controlBase ≤ a.toNat) && decide (a.toNat < s.controlBase + Config.controlBytes)

/-- The classes of a request (R134). -/
inductive RequestClass where
  | control
  | catalogue
  | ingest (f : FeedId)
  | browse (f : FeedId)
  | other
  deriving DecidableEq, Repr

/-- The class of an address (R134). At most one test passes, since no two windows present share a byte. -/
def classify (s : State) (a : Addr) : RequestClass :=
  if inControl s a then .control
  else if s.catalogue.region.any fun g => g.holds a then .catalogue
  else
    match allFeeds.find? fun f => (s.feed f).ingest.any fun w => w.holds a with
    | some f => .ingest f
    | none =>
      match allFeeds.find? fun f => (s.feed f).browse.any fun g => g.holds a with
      | some f => .browse f
      | none => .other

/-! ### Command capture (R130, R173) -/

/-- The command record a request captures, where it is a command capture (R130). -/
def captureOf (s : State) (r : FabricRequest) : Option Command :=
  match r.body with
  | .read _ => none
  | .write lanes =>
    if keepsRule r && inControl s r.addr
        && decide (r.addr.toNat - s.controlBase < Config.commandRingBytes)
        && decide ((r.addr.toNat - s.controlBase) % 64 = 0) && decide (lanes.length = 64) && lanesWhole lanes
    then some { bytes := lanes.map Lane.data }
    else none

/-- The part accepts the request presented (R130). -/
def accepts (s : State) (r : FabricRequest) : Bool :=
  decide (s.forwardQ.length < Config.forwardCapacity)
    && ((captureOf s r).isNone || decide (s.commands.queue.length < Config.commandCapacity))

/-! ### Taps and misses (R145 to R147) -/

/-- A tap miss: the flag is set and the counter counted (R146). -/
def missTap (x : Feed) : Feed :=
  Feed.count (fun c => { c with tapMisses := bump c.tapMisses 1 }) { x with missPending := true }

/-- A write of class ingest window of a running feed: tapped with the after-miss mark, or missed; an arrival
either way (R115, R145, R146). -/
def tapWrite (f : FeedId) (addr : Addr) (lanes : List Lane) (s : State) : State :=
  if lanesWhole lanes && decide (s.tapQ.length < Config.tapCapacity) then
    let e : TapEntry := { feed := f, addr := addr, data := lanes.map Lane.data, stamp := s.timeBase,
                          afterMiss := (s.feed f).missPending }
    arrival f s.timeBase <| State.modFeed { s with tapQ := s.tapQ ++ [e] } f fun x => { x with missPending := false }
  else arrival f s.timeBase (s.modFeed f missTap)

/-- A write that breaks the 4 KiB rule is a miss and an arrival for one feed, where the feed runs and its
ingest window shares a byte with it (R132, R146). That its range does not wrap is DESIGN CHOICE (log 23). -/
def brokenWrite (addr length : Nat) (s : State) (f : FeedId) : State :=
  if (s.feed f).running && ((s.feed f).ingest.any fun w => rangesShare w.base.toNat w.size addr length) then
    arrival f s.timeBase (s.modFeed f missTap)
  else s

/-! ### Intrusion (R84) -/

/-- A fabric write into a browse region: the record that holds the slot has INTRUDED set (R84). -/
def intrude (addr : Addr) (x : Feed) : Feed :=
  let k := (addr.toNat - x.params.browseBase.toNat) / x.params.slotSize
  { x with frame := { x.frame with
      records := x.frame.records.map fun r => if r.slot = some k then r.flag .intruded else r } }

/-! ### The control-block snoop (R85, R86, R171) -/

/-- A release value for a feed (R85, R86). -/
def releaseValue (v : Count) (x : Feed) : Feed :=
  if x.life.state = .vacant then x
  else if countTaken v x.publisher.released x.publisher.published then
    { x with publisher := { x.publisher with released := v } }
  else x.count fun c => { c with badReleases := bump c.badReleases 1 }

/-- The value a write gives the watched word at an offset of the control block (R171). -/
def snooped (s : State) (addr : Addr) (lanes : List Lane) (offset : Nat) : Option Count :=
  let word := s.controlBase + offset
  if addr.toNat ≤ word then coveredWord lanes (word - addr.toNat) else none

/-- An action on a value where there is one. -/
def withValue (v : Option Count) (g : Count → State → State) (s : State) : State :=
  match v with
  | some c => g c s
  | none => s

/-- The release word of one feed is taken from a write (R85). -/
def snoopRelease (addr : Addr) (lanes : List Lane) (s : State) (f : FeedId) : State :=
  withValue (snooped s addr lanes (Config.releaseOffset + 4 * f.val))
    (fun v t => t.modFeed f (releaseValue v)) s

/-- The watched words a write covers are taken, in address order (R171). -/
def snoop (addr : Addr) (lanes : List Lane) (s : State) : State :=
  let s1 := withValue (snooped s addr lanes Config.noticeConsumerOffset) noticeConsumer s
  let s2 := withValue (snooped s addr lanes Config.catalogueConsumerOffset) catalogueConsumer s1
  allFeeds.foldl (snoopRelease addr lanes) s2

/-- A write of class control block: a capture joins the command queue, and the watched words it covers are
taken (R135, R171, R173). -/
def controlWrite (r : FabricRequest) (lanes : List Lane) (s : State) : State :=
  let captured := match captureOf s r with
    | some c => { s with commands := { s.commands with queue := s.commands.queue ++ [c] } }
    | none => s
  snoop r.addr lanes captured

/-! ### Acceptance (R131, R132, R135) -/

/-- The actions a write takes at its acceptance, by its class (R132, R135). A write that breaks the 4 KiB rule can be an
arrival for more than one ABSENT feed, and the manual gives their FEED RESTORED notices no order: DESIGN CHOICE
(log 30), ascending feed numbers, which also settles whose notice is dropped where one place is left (R117, R180). -/
def writeActions (r : FabricRequest) (lanes : List Lane) (s : State) : State :=
  if keepsRule r then
    match classify s r.addr with
    | .control => controlWrite r lanes s
    | .ingest f => if (s.feed f).running then tapWrite f r.addr lanes s else s
    | .browse f => s.modFeed f (intrude r.addr)
    | .catalogue => s
    | .other => s
  else allFeeds.foldl (brokenWrite r.addr.toNat lanes.length) s

/-- Acceptance, one event: the request joins the forward queue and its class actions are taken; a read has
none (R131, R135). -/
def acceptRequest (r : FabricRequest) (s : State) : State :=
  let queued := { s with forwardQ := s.forwardQ ++ [r] }
  match r.body with
  | .read _ => queued
  | .write lanes => writeActions r lanes queued

/-- FABRIC_REQUEST_ACCEPT (R130, R131). A request that is not accepted changes nothing: the fabric holds it
and presents it again (log 3). -/
def execFabricRequestAccept (r : FabricRequest) (s : State) : Host.Outcome State Fault Refusal :=
  .next (if accepts s r then acceptRequest r s else s)

/-! ### The arbiter (R137, R158, R159) -/

/-- The step of R158 at which an entry is chosen; a feed's by the priority of its definition. -/
def chooseStep (s : State) (e : InsEntry) : Nat :=
  match e.source with
  | .notice => 0
  | .catalogue => 1
  | .report => 2
  | .feed f => 6 - (s.feed f).params.priority

/-- The insertion candidate: of the QUEUED entries the oldest of the earliest step (R158). The queue stands
in age order. -/
def insertionCandidate (s : State) : Option InsEntry :=
  (List.range 7).findSome? fun k => s.insQ.find? fun e => e.queued && decide (chooseStep s e = k)

/-- A request is held while a QUEUED entry shares a byte with it (R137). -/
def held (q : List InsEntry) (r : FabricRequest) : Bool :=
  q.any fun e => e.queued && rangesShare r.addr.toNat (r.body.length) e.addr.toNat e.length

/-- The forward candidate: the head of the forward queue, where it is not held (R159). -/
def forwardCandidate (s : State) : Option FabricRequest :=
  match s.forwardQ with
  | [] => none
  | r :: _ => if held s.insQ r then none else some r

/-- An insertion entry is QUEUED. -/
def someQueued (q : List InsEntry) : Bool := q.any InsEntry.queued

/-- The grant goes to the forward head: there is a forward candidate, and no insertion candidate or credit
left (R159). -/
def grantsForward (s : State) : Bool :=
  (forwardCandidate s).isSome && (!someQueued s.insQ || decide (s.credit < Config.creditLimit))

/-- The grant goes to insertion (R159). -/
def grantsInsertion (s : State) : Bool :=
  (insertionCandidate s).isSome && ((forwardCandidate s).isNone || decide (s.credit = Config.creditLimit))

/-! ### Forward issue and answer (R138, R141) -/

/-- The forward head is issued on a tag: it leaves the queue unaltered, the tag holds its master tag and
direction, and the credit count moves (R136, R138, R160). -/
def issueForward (r : FabricRequest) (t : Tag) (s : State) : State :=
  { s with forwardQ := s.forwardQ.tail, tags := s.tags.set t (.forward r.master (bodyDirection r.body)),
           credit := if someQueued s.insQ then s.credit + 1 else 0,
           memPort := some { tag := t, addr := r.addr, body := .forwarded r.body } }

/-- FORWARD_ISSUE (R138): on the lowest FREE tag, where the grant goes to the forward head. -/
def execForwardIssue (s : State) : Host.Outcome State Fault Refusal :=
  .next (match forwardCandidate s, lowestFree s.tags with
    | some r, some t => if grantsForward s then issueForward r t s else s
    | _, _ => s)

/-- FORWARD_ANSWER (R141): the answer goes upstream unchanged with the master tag, and the tag is FREE. -/
def execForwardAnswer (t : Tag) (a : Answer) (s : State) : Host.Outcome State Fault Refusal :=
  .next (match s.tags[t] with
    | .forward master _ => { s.setTag t .free with fabricPort := some { master := master, answer := a } }
    | .free | .insertion | .orphaned _ => s)

/-! ### The time base and power-on reset (R143, R150) -/

/-- TIME_BASE_TICK (R143). -/
def execTimeBaseTick (s : State) : Host.Outcome State Fault Refusal := .next { s with timeBase := s.timeBase + 1 }

/-- A feed after either reset: its reset values, the row buffers' bytes not cleared (R68, R129, R150). -/
def clearFeed (x : Feed) : Feed :=
  { Feed.reset with rows := { buffer0 := { useCount := 0, cells := x.rows.buffer0.cells },
                              buffer1 := { useCount := 0, cells := x.rows.buffer1.cells }, items := [] } }

/-- POWER_ON_RESET (R150, R190): every block at its reset values, the straps sampled. The queue of commands
waiting stands outside the part (log 27). -/
def execPowerOnReset (straps : BitVec 8) (s : State) : Host.Outcome State Fault Refusal :=
  .next { State.reset with pending := s.pending, straps := straps, feeds := s.feeds.map clearFeed }

end Sys2Proof.Machine
end

