-- ==== Sys2Proof/Machine/Commands.lean ====
section
/-! DEFINITION. The command unit (chapters 9.2, 9.3 and 6.1 to 6.6): executing the head command, the nine commands,
RESET ENGINE, and what becomes of commands in CONTROL PATH FAILED. -/

namespace Sys2Proof.Machine

/-! ### The head command (R173 to R175) -/

/-- The head command leaves the queue, and the next one is READY (R173). -/
def popHead (s : State) : State := { s with commands := { queue := s.commands.queue.tail, phase := .ready } }

/-- The head command is answered: its COMMAND DONE is staged and it leaves the queue (R175). -/
def complete (c : Command) (result : CommandResult) (detail : Nat) (s : State) : State :=
  popHead (stageNotice (.commandDone c.serial c.opcodeByte c.feedField result detail) s)

/-- The head command, where the command unit executes it: the engine NORMAL, the head phase READY, and room
for its notice (R175). -/
def executableHead (s : State) : Option Command :=
  if s.normal && decide (s.commands.phase = .ready) && s.noticeRoom then s.commands.queue.head? else none

/-- Executing the head command where its record is one that `names` picks out. -/
def runHead (names : Command → Bool) (body : Command → State → State) (s : State) : State :=
  match executableHead s with
  | some c => if names c then body c s else s
  | none => s

/-- The record's opcode is the one given. -/
def hasOpcode (op : Opcode) (c : Command) : Bool := decide (c.opcode = some op)

/-- A command that names a feed: NO FEED above 15 comes before its own tests (R109, R174). -/
def onFeed (body : FeedId → Command → State → State) (c : Command) (s : State) : State :=
  match c.feed with
  | none => complete c .noFeed 0 s
  | some f => body f c s

/-- A feed's lifecycle state replaced. -/
def setFeedState (x : FeedState) (y : Feed) : Feed := { y with life := { y.life with state := x } }

/-! ### Overlaps (R91, R111) -/

/-- A span of memory: its first address and its length. -/
abbrev Span := Nat × Nat

/-- Two spans share a byte. -/
def spansShare (a b : Span) : Bool := rangesShare a.1 a.2 b.1 b.2

/-- The span of the control block. -/
def controlSpan (s : State) : Span := (s.controlBase, Config.controlBytes)

/-- The span of a region. -/
def Region.span (g : Region) : Span := (g.base.toNat, g.size)

/-- The span of an ingest window. -/
def IngestWindow.span (w : IngestWindow) : Span := (w.base.toNat, w.size)

/-- The windows a feed has in the window table; a VACANT feed has none (R108). -/
def feedSpans (x : Feed) : List Span :=
  (x.ingest.map IngestWindow.span).toList ++ (x.browse.map Region.span).toList

/-- The windows that a new definition of feed `f` must clear (R111, step 4). -/
def watchedSpans (f : FeedId) (s : State) : List Span :=
  controlSpan s :: (s.catalogue.region.map Region.span).toList
    ++ (allFeeds.filter fun g => decide (g ≠ f)).flatMap fun g => feedSpans (s.feed g)

/-- The windows a DEFINE FEED would place overlap watched ones or each other (R111, step 4). -/
def definesOverlap (f : FeedId) (p : FeedParams) (s : State) : Bool :=
  let ingest : Span := (p.ingestBase, p.ingestSize)
  let browse : Span := (p.browseBase, p.slotCount * p.slotSize)
  spansShare ingest browse
    || (watchedSpans f s).any fun w => spansShare ingest w || spansShare browse w

/-! ### SET CATALOGUE (R91) -/

/-- SET CATALOGUE finds the part busy (R91, result 1). -/
def catalogueBusy (s : State) : Bool :=
  (allFeeds.any fun f => decide ((s.feed f).life.state ≠ .vacant)) || !s.catalogue.staging.isEmpty
    || s.insQ.any fun e => decide (e.source = .catalogue)

/-- The result of SET CATALOGUE: the first that applies (R91). -/
def catalogueResult (p : CatalogueParams) (s : State) : CommandResult :=
  if catalogueBusy s then .busy
  else if !p.inRange then .badParameter
  else if spansShare (p.base, 64 * p.entries) (controlSpan s) then .overlap
  else .done

/-- The catalogue writer after SET CATALOGUE is DONE (R91). -/
def setCatalogueTo (p : CatalogueParams) (c : Catalogue) : Catalogue :=
  { c with defn := some { base := BitVec.ofNat 40 p.base, entries := p.entries, trigger := p.trigger, flushMs := p.flushMs },
           region := some { base := BitVec.ofNat 40 p.base, limit := BitVec.ofNat 40 (p.base + 64 * p.entries - 1) },
           produced := 0, consumed := 0, lost := 0, word := .none }

/-- SET CATALOGUE (R91). -/
def doSetCatalogue (c : Command) (s : State) : State :=
  let result := catalogueResult c.catalogueParams s
  complete c result 0 <|
    if result = .done then { s with catalogue := setCatalogueTo c.catalogueParams s.catalogue } else s

/-! ### DEFINE FEED (R111, R112) -/

/-- The result of DEFINE FEED: the first that applies (R109, R111). -/
def defineResult (f : FeedId) (p : FeedParams) (s : State) : CommandResult :=
  if (s.feed f).life.state ≠ .vacant then .busy
  else if s.catalogue.staging.any fun r => decide (r.record.feed = f) then .busy
  else if s.catalogue.defn.isNone then .noCatalogue
  else if !p.inRange then .badParameter
  else if definesOverlap f p s then .overlap
  else .done

/-- A feed after DEFINE FEED is DONE (R112, R144). -/
def definedFeed (p : FeedParams) (x : Feed) : Feed :=
  { life := { Lifecycle.reset with state := .defined, defn := some p.toDef },
    ingest := some p.ingestWindow, browse := some p.browseRegion, missPending := false,
    parse := { ParseContext.reset with cursor := BitVec.ofNat 40 p.ingestBase },
    frame := FrameUnit.reset, reducer := Reducer.reset,
    rows := { x.rows with buffer0 := { x.rows.buffer0 with useCount := 0 },
                          buffer1 := { x.rows.buffer1 with useCount := 0 } },
    publisher := Publisher.reset }

/-- DEFINE FEED for a feed of 0 to 15 (R111, R112). -/
def doDefine (f : FeedId) (c : Command) (s : State) : State :=
  let result := defineResult f c.feedParams s
  complete c result 0 <| if result = .done then s.modFeed f (definedFeed c.feedParams) else s

/-! ### START, SUSPEND, RESUME (R113, R114) -/

/-- A parse context that leaves IDLE (R7). -/
def enterHunt (c : ParseContext) : ParseContext := { c with state := .hunt, budget := 0, residue := 0, packet := none }

/-- A feed whose parser starts: ACTIVE, HUNT, AWAITING, no timecode expected (R7, R26, R113, R127). -/
def runFeed (x : Feed) : Feed :=
  { x with life := { x.life with state := .active, presence := .awaiting }, parse := enterHunt x.parse,
           frame := { x.frame with expectedTimecode := none } }

/-- START FEED (R113). -/
def doStart (f : FeedId) (c : Command) (s : State) : State :=
  match (s.feed f).life.state with
  | .defined => complete c .done 0 (s.modFeed f runFeed)
  | .vacant | .active | .suspended | .draining | .faulted => complete c .busy 0 s

/-- SUSPEND FEED (R109, R114). -/
def doSuspend (f : FeedId) (c : Command) (s : State) : State :=
  match (s.feed f).life.state with
  | .active => complete c .done 0 (s.modFeed f (setFeedState .suspended))
  | .suspended => complete c .done 0 s
  | .vacant | .defined | .draining | .faulted => complete c .busy 0 s

/-- RESUME FEED (R109, R114). -/
def doResume (f : FeedId) (c : Command) (s : State) : State :=
  match (s.feed f).life.state with
  | .suspended => complete c .done 0 (s.modFeed f (setFeedState .active))
  | .active => complete c .done 0 s
  | .vacant | .defined | .draining | .faulted => complete c .busy 0 s

/-! ### RETIRE FEED (R119 to R121) -/

/-- A feed becomes DRAINING with a drain record (R119). -/
def startDrain (serial : BitVec 16) (discarded : Nat) (x : Feed) : Feed :=
  { x with life := { x.life with state := .draining, drain := some { serial := serial, discarded := discarded } } }

/-- RETIRE FEED in mode AT FRAME END of a running feed (R120). -/
def retireAtFrameEnd (f : FeedId) (s : State) : State :=
  if (s.feed f).frame.openFrame = .none then stopParser f s
  else s.modFeed f fun x => { x with frame := { x.frame with retirePending := true } }

/-- RETIRE FEED in mode NOW of a running feed (R121). -/
def retireNow (f : FeedId) (s : State) : State := discardAll f ((stopParser f s).modFeed f idleReducer)

/-- RETIRE FEED with a valid mode, by the feed's state (R119). -/
def retire (f : FeedId) (mode : RetireMode) (c : Command) (s : State) : State :=
  match (s.feed f).life.state with
  | .vacant => complete c .done 0 s
  | .defined => complete c .done 0 (s.modFeed f vacate)
  | .faulted => popHead (s.modFeed f (startDrain c.serial 0))
  | .draining => complete c .busy 0 s
  | .active | .suspended =>
    match mode with
    | .atFrameEnd => popHead (retireAtFrameEnd f (s.modFeed f (startDrain c.serial 0)))
    | .now => popHead (retireNow f (s.modFeed f (startDrain c.serial (s.feed f).frame.records.length)))

/-- RETIRE FEED for a feed of 0 to 15: the mode is tested before the state (R119). -/
def doRetire (f : FeedId) (c : Command) (s : State) : State :=
  match c.retireMode with
  | none => complete c .badParameter 0 s
  | some mode => retire f mode c s

/-! ### RESTART FEED and REPORT FEED (R127, R176, R177) -/

/-- RESTART FEED (R127). -/
def doRestart (f : FeedId) (c : Command) (s : State) : State :=
  match (s.feed f).life.state with
  | .faulted =>
    if ownsOrphan s.tags f then complete c .busy 0 s
    else
      let running := s.modFeed f fun x =>
        runFeed { x with life := { x.life with fault := none },
                         publisher := { x.publisher with stale := false } }
      complete c .done 0 (if (s.feed f).publisher.stale then queueWord (.publish f) running else running)
  | .vacant | .defined | .active | .suspended | .draining => complete c .busy 0 s

/-- The status record's entry (R154, R176). -/
def statusDraft (f : FeedId) (s : State) : EntryDraft :=
  { source := .report, kind := .statusRecord, row := none,
    addr := s.controlAddr (Config.statusOffset + 128 * f.val), length := 128, lanes := .all,
    data := .fixed (statusBytes f s.timeBase (s.feed f)) }

/-- REPORT FEED for a feed of 0 to 15: its status record's entry is made and the head phase becomes REPORTING
(R176). -/
def doReport (f : FeedId) (_ : Command) (s : State) : State :=
  let s' := makeEntry (statusDraft f s) s
  { s' with commands := { s'.commands with phase := .reporting } }

/-- The COMMAND DONE of a REPORT FEED in phase REPORTED is staged where there is room, and the command leaves
the queue (R177). -/
def stageReport (s : State) : State :=
  match s.commands.phase, s.commands.queue with
  | .reported, c :: _ => if s.normal && s.noticeRoom then complete c .done 0 s else s
  | _, _ => s

/-! ### RESET ENGINE (R178) -/

/-- The blocks that RESET ENGINE clears (R106, R129, R151, R169, R178). -/
def clearBlocks (s : State) : State :=
  let w := withdraw (fun _ => true) s
  { w with tapQ := [], feeds := s.feeds.map clearFeed, catalogue := Catalogue.reset, nextAge := 0, credit := 0,
           commands := CommandUnit.reset, notices := NoticeWriter.reset, engine := .normal }

/-- RESET ENGINE: every block cleared, the other commands removed and counted, its own COMMAND DONE staged
(R178). -/
def resetEngine (c : Command) (s : State) : State :=
  stageNotice (.commandDone c.serial c.opcodeByte c.feedField .done (s.commands.queue.length - 1)) (clearBlocks s)

/-! ### The steps -/

/-- SET_CATALOGUE (R91). -/
def execSetCatalogue (s : State) : Host.Outcome State Fault Refusal :=
  .next (runHead (hasOpcode .setCatalogue) doSetCatalogue s)

/-- DEFINE_FEED (R111). -/
def execDefineFeed (s : State) : Host.Outcome State Fault Refusal :=
  .next (runHead (hasOpcode .defineFeed) (onFeed doDefine) s)

/-- START_FEED (R113). -/
def execStartFeed (s : State) : Host.Outcome State Fault Refusal :=
  .next (runHead (hasOpcode .startFeed) (onFeed doStart) s)

/-- SUSPEND_FEED (R114). -/
def execSuspendFeed (s : State) : Host.Outcome State Fault Refusal :=
  .next (runHead (hasOpcode .suspendFeed) (onFeed doSuspend) s)

/-- RESUME_FEED (R114). -/
def execResumeFeed (s : State) : Host.Outcome State Fault Refusal :=
  .next (runHead (hasOpcode .resumeFeed) (onFeed doResume) s)

/-- RETIRE_FEED_AT_FRAME_END (R120): a RETIRE FEED record whose mode is not NOW; one of no valid mode is
refused by either RETIRE step (R119, log 22). -/
def execRetireFeedAtFrameEnd (s : State) : Host.Outcome State Fault Refusal :=
  .next (runHead (fun c => hasOpcode .retireFeed c && decide (c.retireMode ≠ some .now)) (onFeed doRetire) s)

/-- RETIRE_FEED_NOW (R121): a RETIRE FEED record whose mode is not AT FRAME END (R119, log 22). -/
def execRetireFeedNow (s : State) : Host.Outcome State Fault Refusal :=
  .next (runHead (fun c => hasOpcode .retireFeed c && decide (c.retireMode ≠ some .atFrameEnd)) (onFeed doRetire) s)

/-- RESTART_FEED (R127). -/
def execRestartFeed (s : State) : Host.Outcome State Fault Refusal :=
  .next (runHead (hasOpcode .restartFeed) (onFeed doRestart) s)

/-- REPORT_FEED (R176). -/
def execReportFeed (s : State) : Host.Outcome State Fault Refusal :=
  .next (runHead (hasOpcode .reportFeed) (onFeed doReport) s)

/-- RESET_ENGINE (R178): executed at the head in either engine condition, whatever is staged. -/
def execResetEngine (s : State) : Host.Outcome State Fault Refusal :=
  .next (match s.commands.phase, s.commands.queue with
    | .ready, c :: _ => if hasOpcode .resetEngine c then resetEngine c s else s
    | _, _ => s)

/-- UNKNOWN_COMMAND (R174). -/
def execUnknownCommand (s : State) : Host.Outcome State Fault Refusal :=
  .next (runHead (fun c => c.opcode.isNone) (fun c t => complete c .unknownCommand 0 t) s)

/-- COMMAND_DISCARD (R188): in CONTROL PATH FAILED a head command other than RESET ENGINE leaves without a
result. -/
def execCommandDiscard (s : State) : Host.Outcome State Fault Refusal :=
  .next (match s.engine, s.commands.queue with
    | .controlPathFailed, c :: _ => if hasOpcode .resetEngine c then s else popHead s
    | _, _ => s)

/-- REPORT_NOTICE_STAGE (R177). -/
def execReportNoticeStage (s : State) : Host.Outcome State Fault Refusal := .next (stageReport s)

end Sys2Proof.Machine
end

