-- ==== Sys2Proof/Machine/Insertion.lean ====
section
/-! DEFINITION. The insertion queue (chapter 8): the issue of an entry, its answers, retries and final failures
(R161 to R164), the answers after CONTROL PATH FAILED (R168) and orphaned answers (R142, R75, R126). -/

namespace Sys2Proof.Machine

/-! ### Issue (R155, R160, R161) -/

/-- The bytes an entry writes at an issue (R155). -/
def entryBytes (s : State) (e : InsEntry) : List Byte :=
  match e.data with
  | .fixed bytes => bytes
  | .word v => leBytes 4 v.toNat
  | .buffer b offset =>
    match e.source with
    | .feed f => readCells ((s.feed f).rows.buffer b).cells offset e.length
    | .catalogue | .notice | .report => []

/-- The lanes an entry puts on the link: its bytes, each disabled lane without one (R154, log 7). -/
def entryLanes (s : State) (e : InsEntry) : List (Option Byte) :=
  match e.lanes with
  | .all => (entryBytes s e).map some
  | .four offset =>
    List.replicate offset none ++ (entryBytes s e).map some ++ List.replicate (e.length - offset - 4) none

/-- The state of the word a word entry belongs to, or of the row part it writes, follows the entry (R71,
R82, R102, R161, R163, R183). -/
def tellSource (part : PartState) (word : WordState) (e : InsEntry) (s : State) : State :=
  match e.kind, e.source with
  | .row, .feed f =>
    match e.row with
    | some ref => s.modFeed f fun x => { x with rows := x.rows.markPart ref part }
    | none => s
  | .publishWord, .feed f => setWord (.publish f) word s
  | .catalogueWord, _ => setWord .catalogue word s
  | .noticeWord, _ => setWord .notice word s
  | _, _ => s

/-- An entry is issued on a tag: ISSUED, the tag INSERTION, the credit count 0, the source told (R160,
R161). -/
def issueEntry (e : InsEntry) (t : Tag) (s : State) : State :=
  tellSource .issued .issued e
    { s with insQ := changeEntry e.age (fun x => { x with state := .issued t }) s.insQ,
             tags := s.tags.set t .insertion, credit := 0,
             memPort := some { tag := t, addr := e.addr, body := .inserted (entryLanes s e) } }

/-- INSERTION_ISSUE (R161): on the lowest FREE tag, where the grant goes to insertion. -/
def execInsertionIssue (s : State) : Host.Outcome State Fault Refusal :=
  .next (match insertionCandidate s, lowestFree s.tags with
    | some e, some t => if grantsInsertion s then issueEntry e t s else s
    | _, _ => s)

/-! ### Answers (R162 to R164) -/

/-- An entry leaves the insertion queue. -/
def dropEntry (e : InsEntry) (s : State) : State :=
  { s with insQ := s.insQ.filter fun x => decide (x.age ≠ e.age) }

/-- The value a word entry wrote. -/
def DataRef.wordValue : DataRef → Count
  | .word v => v
  | .buffer _ _ | .fixed _ => 0

/-- The record an item belongs to counts one row answered (R72). -/
def countRow (serial : Count) (x : Feed) : Feed :=
  { x with frame := { x.frame with
      records := x.frame.records.map fun r =>
        if r.serial = serial then { r with rowsAnswered := r.rowsAnswered + 1 } else r } }

/-- The record of the LIVE item a row reference names, where every part of the item is ANSWERED (R72). -/
def endedLive (ref : RowRef) (items : List RowItem) : Option Count :=
  (items.find? fun i => ref.names i && i.ended && decide (i.standing = .live)).map RowItem.serial

/-- A row part answered without error (R72): its item may end, counting rows answered and making the record
ready. -/
def rowAnswered (f : FeedId) (ref : RowRef) (s : State) : State :=
  let marked := (s.feed f).rows.markPart ref .answered
  let s' := s.modFeed f fun x =>
    let y := { x with rows := marked.sweep }
    match endedLive ref marked.items with
    | some serial => countRow serial y
    | none => y
  settleFeed f s'

/-- The status record answered without error: the head phase becomes REPORTED (R177). -/
def reportAnswered (s : State) : State :=
  match s.commands.phase with
  | .reporting => { s with commands := { s.commands with phase := .reported } }
  | .ready | .reported => s

/-- The source acts on an answer without error, its entry having left the queue (R162). -/
def answerOk (e : InsEntry) (s : State) : State :=
  match e.kind, e.source with
  | .row, .feed f =>
    match e.row with
    | some ref => rowAnswered f ref s
    | none => s
  | .header, .feed f => headerAnswered f s
  | .publishWord, .feed f => wordAnswered (.publish f) e.data.wordValue s
  | .batch, _ => batchAnswered s
  | .catalogueWord, _ => wordAnswered .catalogue e.data.wordValue s
  | .notice, _ => noticeAnswered s
  | .noticeWord, _ => wordAnswered .notice e.data.wordValue s
  | .statusRecord, _ => reportAnswered s
  | _, _ => s

/-- The word an entry writes, where it is a word entry. -/
def InsEntry.word (e : InsEntry) : Option WordId :=
  match e.kind, e.source with
  | .publishWord, .feed f => some (.publish f)
  | .catalogueWord, _ => some .catalogue
  | .noticeWord, _ => some .notice
  | _, _ => none

/-- The data of an entry returned for a retry: a word takes its present count (R163). -/
def retryData (s : State) (e : InsEntry) : DataRef :=
  match e.word with
  | some w => .word (w.value s)
  | none => e.data

/-- An ERROR below the fourth attempt: the entry is QUEUED again with its age, its attempt count raised, and
its source told (R163). -/
def retryEntry (e : InsEntry) (s : State) : State :=
  tellSource .queued .queued e
    { s with insQ := s.insQ |> changeEntry e.age fun x =>
        { x with state := .queued, attempt := x.attempt + 1, data := retryData s e } }

/-- What a failed entry leaves with its source before the failure acts: a row item without the part, a word
with no entry, no batch in flight (R101, R125, logs 16 and 18). -/
def forgetFailed (e : InsEntry) (s : State) : State :=
  match e.kind, e.source with
  | .row, .feed f =>
    match e.row with
    | some ref => s.modFeed f fun x =>
        { x with rows := { x.rows with
            items := x.rows.items.map fun i => if ref.names i then i.dropPart ref.part else i } }
    | none => s
  | .publishWord, .feed f => setWord (.publish f) .none s
  | .catalogueWord, _ => setWord .catalogue .none s
  | .noticeWord, _ => setWord .notice .none s
  | .batch, _ => { s with catalogue := { s.catalogue with batch := none } }
  | _, _ => s

/-- The routing of a final failure: a feed's entry faults the feed, any other sends the engine into CONTROL
PATH FAILED (R164). -/
def routeFailure (e : InsEntry) (s : State) : State :=
  match e.source with
  | .feed f => feedFault f (if e.kind = .publishWord then .publishWriteFailed else .browseWriteFailed) s
  | .catalogue | .notice | .report => enterFailed s

/-- An answer while the engine has failed: the entry leaves, its source told without retry (R89, R105, R168,
R188, R189). -/
def answerFailed (e : InsEntry) (s : State) : State :=
  match e.kind, e.source with
  | .row, .feed f =>
    match e.row with
    | some ref => s.modFeed f fun x => { x with rows := (x.rows.markPart ref .answered).sweep }
    | none => s
  | .publishWord, .feed f => setWord (.publish f) .none s
  | .catalogueWord, _ => setWord .catalogue .none s
  | .noticeWord, _ => setWord .notice .none s
  | .batch, _ => { s with catalogue := { s.catalogue with batch := none } }
  | _, _ => s

/-- What becomes of an entry at its answer (R162 to R164, R168). -/
def answerEntry (e : InsEntry) (status : AnswerStatus) (s : State) : State :=
  if s.normal then
    match status with
    | .ok => answerOk e (dropEntry e s)
    | .error =>
      if e.attempt < Config.attemptLimit then retryEntry e s
      else routeFailure e (forgetFailed e (dropEntry e s))
  else answerFailed e (dropEntry e s)

/-- INSERTION_ANSWER (R162): the tag is FREE from that moment, and the entry it held is answered. -/
def execInsertionAnswer (t : Tag) (status : AnswerStatus) (s : State) : Host.Outcome State Fault Refusal :=
  .next (match s.tags[t] with
    | .insertion =>
      match entryOn s.insQ t with
      | some e => answerEntry e status (s.setTag t .free)
      | none => s.setTag t .free
    | .free | .forward _ _ | .orphaned _ => s)

/-! ### Orphaned answers (R75, R126, R142) -/

/-- An ERROR on an orphaned row part adds BROWSE WRITE FAILED to the further causes of a fault word present
(R126). -/
def furtherCause (status : AnswerStatus) (x : Feed) : Feed :=
  match status with
  | .ok => x
  | .error =>
    { x with life := { x.life with
        fault := x.life.fault.map fun w => { w with furtherBrowse := true } } }

/-- The answer to an orphaned row part: the part is ANSWERED and its item may end; an answer that names no
item is discarded (R75, R126, log 15). -/
def orphanedRow (ref : RowRef) (status : AnswerStatus) (x : Feed) : Feed :=
  if x.rows.items.any ref.names then
    furtherCause status { x with rows := (x.rows.markPart ref .answered).sweep }
  else x

/-- An orphaned answer goes to the row store for a row part, and is discarded for every other kind (R142). -/
def orphanAnswered (i : EntryIdent) (status : AnswerStatus) (s : State) : State :=
  match i.kind, i.source, i.row with
  | .row, .feed f, some ref => s.modFeed f (orphanedRow ref status)
  | _, _, _ => s

/-- ORPHANED_ANSWER (R142): an answer on an ORPHANED tag frees it and goes to the block it names; one on a
FREE tag is discarded. -/
def execOrphanedAnswer (t : Tag) (status : AnswerStatus) (s : State) : Host.Outcome State Fault Refusal :=
  .next (match s.tags[t] with
    | .orphaned i => orphanAnswered i status (s.setTag t .free)
    | .free | .forward _ _ | .insertion => s)

end Sys2Proof.Machine
end

