-- ==== Sys2Proof/Machine/Parser.lean ====
section
/-! DEFINITION. The feed parser (chapter 1): the break test, HUNT and lock, taking a header, walking a payload.
Every header and every payload is a whole number of 32-byte positions and every tap entry begins at one
(R1), so the parser works one 32-byte position at a time. -/

namespace Sys2Proof.Machine

/-- A feed with its parse context changed. -/
def Feed.onParse (g : ParseContext → ParseContext) (x : Feed) : Feed := { x with parse := g x.parse }

/-- The address after a position, taken around the ring (R9). -/
def ringNext (p : FeedDef) (addr : Addr) (n : Nat) : Addr :=
  if p.ingestBase.toNat + p.ingestSize ≤ addr.toNat + n then
    BitVec.ofNat 40 (addr.toNat + n - p.ingestSize)
  else BitVec.ofNat 40 (addr.toNat + n)

/-! ### The hand-off (R18, R19) -/

/-- A stray packet is counted (R19). -/
def countStray (x : Feed) : Feed := x.count fun c => { c with strayPackets := bump c.strayPackets 1 }

/-- A LINES or AUDIO header: STRAY with no frame open, SKIP in an untracked frame, and the frame unit's test in
a tracked one (R18). -/
def handPayload (test : FrameRecord → Disposition × FrameRecord) (x : Feed) : Feed × Disposition :=
  match x.frame.openFrame with
  | .none => (countStray x, .stray)
  | .untracked => (x, .skip)
  | .tracked =>
    match x.openRecord with
    | none => (x, .skip)
    | some r => (x.onOpen fun q => (test q).2, (test r).1)

/-- A CLOSE header: STRAY with no frame open; else the frame closes, its length counting the CLOSE header and
payload (R18, R41). -/
def handClose (f : FeedId) (len : Nat) (s : State) : State × Disposition :=
  if (s.feed f).frame.openFrame = .none then (s.modFeed f countStray, .stray)
  else (closeFrame f .close (s.modFeed f (countLength (32 + len))), .skip)

/-- A valid header is handed to the frame unit, which gives the payload's disposition (R18). Its 32 bytes
count toward the open frame's length; an OPEN's toward the frame it opens (R41). -/
def handOff (f : FeedId) (stamp : Time) (addr : Addr) (h : EssenceHeader) (s : State) : State × Disposition :=
  match h.kind with
  | .opening => (handOpen f stamp addr h s, .skip)
  | .lines =>
    let r := handPayload (linesTest h) (countLength 32 (s.feed f))
    (s.setFeed f r.1, r.2)
  | .audio =>
    let r := handPayload (audioTest h) (countLength 32 (s.feed f))
    (s.setFeed f r.1, r.2)
  | .close => handClose f h.len s
  | .fill => (s.modFeed f (countLength 32), .skip)

/-- The context after a hand-off (R20): AT HEADER after an empty payload, else IN PAYLOAD. -/
def enterPayload (kind : PacketKind) (len : Nat) (d : Disposition) (c : ParseContext) : ParseContext :=
  if len = 0 then { c with state := .atHeader, residue := 0, packet := none }
  else { c with state := .inPayload, residue := len, packet := some { kind := kind, disposition := d } }

/-- A valid header at a position is taken: the cursor and the expected sequence move, the budget is 0, the
header is handed off, and the payload's state is entered unless the hand-off made the context IDLE
(R14, R17, R18, R20, log 14). -/
def takeHeader (f : FeedId) (stamp : Time) (addr : Addr) (h : EssenceHeader) (s : State) : State :=
  let moved := s.modFeed f fun x => x.onParse fun c =>
    { c with cursor := ringNext x.params addr 32, expectedSeq := h.sequence + 1, budget := 0 }
  let r := handOff f stamp addr h moved
  if (r.1.feed f).running then r.1.modFeed f (Feed.onParse (enterPayload h.kind h.len r.2)) else r.1

/-! ### HUNT (R13 to R15) -/

/-- A failed position in HUNT: the budget grows, the cursor moves past it, and its bytes count as scanned
(R13, R41). -/
def failPosition (addr : Addr) (x : Feed) : Feed :=
  countLength 32 <| x.onParse fun c => { c with budget := c.budget + 32, cursor := ringNext x.params addr 32 }

/-- One position examined in HUNT: a lock, or a failed position and the NO LOCK test (R13 to R15). -/
def huntPosition (f : FeedId) (stamp : Time) (addr : Addr) (bytes : List Byte) (s : State) : State :=
  match readHeader (s.feed f).params.tag bytes with
  | some h => takeHeader f stamp addr h s
  | none =>
    let s' := s.modFeed f (failPosition addr)
    if (s'.feed f).params.ingestSize < (s'.feed f).parse.budget then feedFault f .noLock s' else s'

/-! ### AT HEADER (R16, R17) -/

/-- A header reject: counted, the cursor past the position, HUNT with budget 0 (R16). -/
def rejectHeader (addr : Addr) (x : Feed) : Feed :=
  countLength 32 <| Feed.count (fun c => { c with headerRejects := bump c.headerRejects 1 }) <|
    x.onParse fun c => { c with state := .hunt, budget := 0, cursor := ringNext x.params addr 32 }

/-- The gap of a header's sequence number (R17). -/
def sequenceGap (h : EssenceHeader) (x : Feed) : Nat := (h.sequence - x.parse.expectedSeq).toNat

/-- A nonzero gap goes to the counter and to the tracked open frame's record (R17). -/
def noteGap (gap : Nat) (x : Feed) : Feed :=
  if gap = 0 then x
  else
    let y := x.count fun c => { c with sequenceGaps := bump c.sequenceGaps gap }
    if y.frame.openFrame = .tracked then
      y.onOpen fun r => FrameRecord.flag .seqGap { r with sequenceGaps := satAdd 65535 r.sequenceGaps gap }
    else y

/-- The position at the cursor in AT HEADER (R16, R17). -/
def headerPosition (f : FeedId) (stamp : Time) (addr : Addr) (bytes : List Byte) (s : State) : State :=
  match readHeader (s.feed f).params.tag bytes with
  | some h => takeHeader f stamp addr h (s.modFeed f fun x => noteGap (sequenceGap h x) x)
  | none => s.modFeed f (rejectHeader addr)

/-! ### IN PAYLOAD (R21 to R24) -/

/-- The feed with the positions of its packet in progress replaced. -/
def setDisposition (d : Disposition) (c : ParseContext) : ParseContext :=
  { c with packet := c.packet.map fun p => { p with disposition := d } }

/-- A picture word under DELIVER LINES, or a pad word after the last line (R22, R38). -/
def pictureWord (f : FeedId) (s : State) (word : Nat) : State :=
  let x := s.feed f
  match x.parse.packet, x.openRecord with
  | some { kind := _, disposition := .lines line remaining pos }, some r =>
    if remaining = 0 then s
    else
      let y := if line < r.height ∧ r.reason = .none then
          { x with reducer := x.reducer.addWord x.params.decimation r.width line pos (word % 1024) }
        else x
      if pos + 1 = 2 * r.width then
        completeLine f line r (s.setFeed f (y.onParse (setDisposition (.lines (line + 1) (remaining - 1) 0))))
      else s.setFeed f (y.onParse (setDisposition (.lines line remaining (pos + 1))))
  | _, _ => s

/-- An audio word under DELIVER AUDIO, or a pad word after the last sample (R23, R39). -/
def audioWord (x : Feed) (word : Nat) : Feed :=
  match x.parse.packet with
  | some { kind := _, disposition := .audio channels total pos } =>
    if pos < total then
      Feed.onParse (setDisposition (.audio channels total (pos + 1)))
        { x with frame := { x.frame with peaks := meter x.frame.peaks (pos % channels) (signed24 word) } }
    else x
  | _ => x

/-- The 32 bytes of a position read under the payload's disposition (R21 to R23). -/
def readPayload (f : FeedId) (bytes : List Byte) (s : State) : State :=
  match (s.feed f).parse.packet with
  | some { kind := _, disposition := .lines _ _ _ } => (words16 bytes).foldl (pictureWord f) s
  | some { kind := _, disposition := .audio _ _ _ } => s.modFeed f fun x => (words32 bytes).foldl audioWord x
  | _ => s

/-- The context after 32 payload bytes: the packet ends where none remain (R21, R24). -/
def consumePayload (addr : Addr) (x : Feed) : Feed :=
  countLength 32 <| x.onParse fun c =>
    let d := { c with residue := c.residue - 32, cursor := ringNext x.params addr 32 }
    if d.residue = 0 then { d with state := .atHeader, packet := none } else d

/-- One position of a payload (R21 to R24). -/
def payloadPosition (f : FeedId) (addr : Addr) (bytes : List Byte) (s : State) : State :=
  (readPayload f bytes s).modFeed f (consumePayload addr)

/-! ### Serving the tap queue (R8, R10, R11) -/

/-- One position of a tap entry, under the state the context is in; nothing once it is IDLE (R8). -/
def parsePosition (f : FeedId) (stamp : Time) (addr : Addr) (bytes : List Byte) (s : State) : State :=
  match (s.feed f).parse.state with
  | .idle => s
  | .hunt => huntPosition f stamp addr bytes s
  | .atHeader => headerPosition f stamp addr bytes s
  | .inPayload => payloadPosition f addr bytes s

/-- The positions of an entry from its first, each 32 bytes after the one before (R8, R13). -/
def parsePositions (f : FeedId) (stamp : Time) : Addr → List (List Byte) → State → State
  | _, [], s => s
  | addr, bytes :: rest, s => parsePositions f stamp (addr + 32) rest (parsePosition f stamp addr bytes s)

/-- An entry is a break for a context in AT HEADER or IN PAYLOAD: its address is not the cursor, or it is
marked after-miss (R10). -/
def isBreak (e : TapEntry) (c : ParseContext) : Bool :=
  match c.state with
  | .atHeader | .inPayload => decide (e.addr ≠ c.cursor) || e.afterMiss
  | .idle | .hunt => false

/-- A break: counted, BREAK set, a partial line discarded, HUNT with budget 0 (R11). -/
def breakFeed (x : Feed) : Feed :=
  Feed.count (fun c => { c with breaks := bump c.breaks 1 }) <|
    Feed.onParse (fun c => { c with state := .hunt, residue := 0, packet := none, budget := 0 }) <|
      flagOpen .break (discardLine x)

/-- An entry taken from the queue's head is tested for a break and parsed (R8, R10). -/
def parseEntry (e : TapEntry) (s : State) : State :=
  let tested := if isBreak e (s.feed e.feed).parse then s.modFeed e.feed breakFeed else s
  parsePositions e.feed e.stamp e.addr (positions e.data) tested

/-- The parser takes the head tap entry, parses it, and removes it (R8). -/
def serveTap (s : State) : State :=
  match s.tapQ with
  | [] => s
  | e :: rest => parseEntry e { s with tapQ := rest }

/-- PARSE_TAP_ENTRY (R8). -/
def execParseTapEntry (s : State) : Host.Outcome State Fault Refusal := .next (serveTap s)

end Sys2Proof.Machine
end

