-- ==== Sys2Proof/Machine/Dispatch.lean ====
section
/-! DEFINITION. One arm per command: its meaning, by a direct call. -/

namespace Sys2Proof.Machine

def exec (i : Instr) (s : State) : Host.Outcome State Fault Refusal :=
  match i with
  | .powerOnReset straps => Sys2Proof.Machine.execPowerOnReset straps s
  | .fabricRequestAccept request => Sys2Proof.Machine.execFabricRequestAccept request s
  | .forwardIssue => Sys2Proof.Machine.execForwardIssue s
  | .insertionIssue => Sys2Proof.Machine.execInsertionIssue s
  | .forwardAnswer tag answer => Sys2Proof.Machine.execForwardAnswer tag answer s
  | .insertionAnswer tag status => Sys2Proof.Machine.execInsertionAnswer tag status s
  | .orphanedAnswer tag status => Sys2Proof.Machine.execOrphanedAnswer tag status s
  | .parseTapEntry => Sys2Proof.Machine.execParseTapEntry s
  | .lossTimeoutExpiry feed => Sys2Proof.Machine.execLossTimeoutExpiry feed s
  | .flushTimeoutExpiry => Sys2Proof.Machine.execFlushTimeoutExpiry s
  | .batchStart => Sys2Proof.Machine.execBatchStart s
  | .noticeEntryMake => Sys2Proof.Machine.execNoticeEntryMake s
  | .rowPartQueue feed => Sys2Proof.Machine.execRowPartQueue feed s
  | .setCatalogue => Sys2Proof.Machine.execSetCatalogue s
  | .defineFeed => Sys2Proof.Machine.execDefineFeed s
  | .startFeed => Sys2Proof.Machine.execStartFeed s
  | .suspendFeed => Sys2Proof.Machine.execSuspendFeed s
  | .resumeFeed => Sys2Proof.Machine.execResumeFeed s
  | .retireFeedAtFrameEnd => Sys2Proof.Machine.execRetireFeedAtFrameEnd s
  | .retireFeedNow => Sys2Proof.Machine.execRetireFeedNow s
  | .restartFeed => Sys2Proof.Machine.execRestartFeed s
  | .reportFeed => Sys2Proof.Machine.execReportFeed s
  | .resetEngine => Sys2Proof.Machine.execResetEngine s
  | .unknownCommand => Sys2Proof.Machine.execUnknownCommand s
  | .commandDiscard => Sys2Proof.Machine.execCommandDiscard s
  | .reportNoticeStage => Sys2Proof.Machine.execReportNoticeStage s
  | .drainExit feed => Sys2Proof.Machine.execDrainExit feed s
  | .timeBaseTick => Sys2Proof.Machine.execTimeBaseTick s

end Sys2Proof.Machine
end

