-- ==== Sys2Proof/Safety.lean ====
section
/-! DEFINITION. What a safe run keeps: the bounds and relations the manual states about the part as a whole. Each
is a decidable proposition about one state, and the certificates state that every step keeps it. -/

namespace Sys2Proof.Machine

/-! ### Queue bounds -/

/-- Every queue is within its capacity and the credit count within its range (R28, R94, R136, R144, R160,
R173, R180). -/
abbrev State.withinCapacity (s : State) : Prop :=
  s.forwardQ.length ≤ Config.forwardCapacity ∧ s.tapQ.length ≤ Config.tapCapacity
    ∧ s.commands.queue.length ≤ Config.commandCapacity
    ∧ s.notices.staging.length ≤ Config.noticeCapacity
    ∧ s.catalogue.staging.length ≤ Config.stagingCapacity ∧ s.credit ≤ Config.creditLimit
    ∧ ∀ f : FeedId, (s.feed f).frame.records.length ≤ Config.recordCapacity

/-- Every row buffer is in its canonical form (Machine/RowStore.lean). -/
abbrev State.buffersWf (s : State) : Prop :=
  ∀ f : FeedId, cellsWf (s.feed f).rows.buffer0.cells = true ∧ cellsWf (s.feed f).rows.buffer1.cells = true

/-! ### The insertion queue and the tags -/

/-- The kinds of entry a source makes (R154). -/
def kindFits : Source → EntryKind → Bool
  | .feed _, .row | .feed _, .header | .feed _, .publishWord => true
  | .catalogue, .batch | .catalogue, .catalogueWord => true
  | .notice, .notice | .notice, .noticeWord => true
  | .report, .statusRecord => true
  | _, _ => false

/-- The places of a source in the insertion queue (R156). -/
def Source.places : Source → Nat
  | .feed _ => 4
  | .catalogue => 2
  | .notice => 2
  | .report => 1

/-- Every entry is of a kind its source makes, and no source holds more entries of a kind than its quota
(R154, R156). -/
abbrev State.quotasKept (s : State) : Prop :=
  ∀ e ∈ s.insQ, kindFits e.source e.kind = true ∧
    (s.insQ.countP fun x => decide (x.source = e.source) && decide (x.kind = e.kind)) ≤ e.kind.limit

/-- The insertion queue stands in age order, every age below the next one to be given (R153, R157). -/
abbrev State.agesRise (s : State) : Prop :=
  (s.insQ.map InsEntry.age).Pairwise (· < ·) ∧ ∀ e ∈ s.insQ, e.age < s.nextAge

/-- A tag is INSERTION exactly where an entry is ISSUED on it, and no two entries share a tag (R140, R161). -/
abbrev State.tagsAgree (s : State) : Prop :=
  (∀ t : Tag, s.tags[t] = .insertion ↔ ∃ e ∈ s.insQ, e.state = .issued t)
    ∧ s.insQ.Pairwise fun a b => a.state = .queued ∨ a.state ≠ b.state

/-! ### Frames and browse counts, feed by feed -/

/-- Only the newest record can be OPEN, only the head can be SEALING, a SEALING record has browse, no record is OPEN
unless a tracked frame is open, and then the newest is, its serial the one given last (R28, R29, R45). -/
abbrev Feed.framesInOrder (x : Feed) : Prop :=
  (∀ r ∈ x.frame.records.dropLast, r.state ≠ .opened)
    ∧ (∀ r ∈ x.frame.records.tail, r.state ≠ .sealing)
    ∧ (∀ r ∈ x.frame.records, r.state = .sealing → r.slot.isSome)
    ∧ (x.frame.openFrame ≠ .tracked → ∀ r ∈ x.frame.records, r.state ≠ .opened)
    ∧ (x.frame.openFrame = .tracked →
        ∃ r ∈ x.frame.records.getLast?, r.state = .opened ∧ r.serial + 1 = x.frame.nextSerial)

/-- R ≤ P ≤ A ≤ R + slot count, counted modulo 2^32, with A − P the records that have browse (R77, R78); a
slot count is at most 256 (R110). -/
abbrev Feed.browseCounts (x : Feed) : Prop :=
  (x.publisher.assigned - x.publisher.released).toNat
      = (x.publisher.published - x.publisher.released).toNat
        + (x.frame.records.countP fun r => r.slot.isSome)
    ∧ (x.publisher.assigned - x.publisher.released).toNat ≤ x.params.slotCount
    ∧ x.params.slotCount ≤ 256

/-- A feed that is VACANT, DEFINED or FAULTED has an IDLE parse context, a VACANT or DEFINED feed has no row
write, and each buffer's use count is the number of items that name it (R68, R108). -/
abbrev Feed.rowsCounted (x : Feed) : Prop :=
  (x.life.state = .vacant ∨ x.life.state = .defined ∨ x.life.state = .faulted → x.parse.state = .idle)
    ∧ (x.life.state = .vacant ∨ x.life.state = .defined → x.rows.items = [])
    ∧ x.rows.buffer0.useCount = (x.rows.items.countP fun i => decide (i.buffer = .zero))
    ∧ x.rows.buffer1.useCount = (x.rows.items.countP fun i => decide (i.buffer = .one))

/-- A feed's frames stand in order and its browse counts agree. -/
abbrev State.publishing (s : State) : Prop :=
  ∀ f : FeedId, (s.feed f).framesInOrder ∧ (s.feed f).browseCounts

/-- Every feed's row writes are counted. -/
abbrev State.rowsCounted (s : State) : Prop := ∀ f : FeedId, (s.feed f).rowsCounted

/-! ### The two rings in the control of software -/

/-- A batch in flight carries staged records and fits the free entries, and Wc never exceeds Rc by more than
the entry count (R98 to R100). -/
abbrev State.catalogueWindow (s : State) : Prop :=
  (∀ b ∈ s.catalogue.batch, 1 ≤ b.size ∧ b.size ≤ s.catalogue.staging.length)
    ∧ ∀ d ∈ s.catalogue.defn, d.entries ≤ 65536
        ∧ (s.catalogue.produced - s.catalogue.consumed).toNat ≤ d.entries
        ∧ ∀ b ∈ s.catalogue.batch,
            (s.catalogue.produced - s.catalogue.consumed).toNat + b.size ≤ d.entries

/-- Pn never exceeds Cn by more than 64, nor reaches 64 above it while a notice is being written, and at most
one notice is (R181). -/
abbrev State.noticeWindow (s : State) : Prop :=
  (s.notices.produced - s.notices.consumed).toNat ≤ Config.noticeSlots
    ∧ (s.insQ.countP fun e => decide (e.kind = .notice)) ≤ 1
    ∧ (noticeInQueue s.insQ = true → (s.notices.produced - s.notices.consumed).toNat < Config.noticeSlots)

/-! ### The window table -/

/-- The spans of the windows present: the control block, the catalogue region, and the two windows of each feed (R133). -/
def State.windowSpans (s : State) : List Span :=
  controlSpan s :: (s.catalogue.region.map Region.span).toList ++ allFeeds.flatMap fun f => feedSpans (s.feed f)

/-- No two windows present share a byte; a VACANT feed has none; every ingest window is a ring of 64 KiB times a power
of two at a multiple of its size, so that its address test is its byte range (R108, R110, R134). -/
abbrev State.windowsApart (s : State) : Prop :=
  (∀ f : FeedId, (s.feed f).life.state = .vacant → (s.feed f).ingest = none ∧ (s.feed f).browse = none)
    ∧ (∀ f : FeedId, ∀ w ∈ (s.feed f).ingest, ∃ k : Fin 15,
        w.mask = ~~~(BitVec.ofNat 40 (65536 * 2 ^ k.val - 1)) ∧ w.base.toNat % (65536 * 2 ^ k.val) = 0)
    ∧ s.windowSpans.Pairwise fun a b => spansShare a b = false

/-! ### Stating what a command does

The states and conditions that the certificates name more than once. -/

/-- The bytes of two ranges, each a first address and a length, meet (R137). -/
abbrev rangesMeet (a la b lb : Nat) : Prop := ∃ x : Nat, a ≤ x ∧ x < a + la ∧ b ≤ x ∧ x < b + lb

/-- `t` is the lowest-numbered FREE tag (R140). -/
abbrev State.lowestTag (s : State) (t : Tag) : Prop :=
  s.tags[t] = .free ∧ ∀ u : Tag, u.val < t.val → s.tags[u] ≠ .free

/-- The entry `e` is in the queue, ISSUED on the INSERTION tag `t`, and no other entry has its age or tag. -/
abbrev State.inFlight (s : State) (e : InsEntry) (t : Tag) : Prop :=
  s.tags[t] = .insertion ∧ e ∈ s.insQ ∧ e.state = .issued t
    ∧ ∀ x ∈ s.insQ, x.age = e.age ∨ x.state = .issued t → x = e

/-- The command unit executes the head `c`, whose opcode byte is `code`, with `rest` behind it (R175). -/
abbrev State.headRuns (s : State) (c : Command) (rest : List Command) (code : Byte) : Prop :=
  s.engine = .normal ∧ s.commands.phase = .ready ∧ s.notices.staging.length < Config.noticeCapacity
    ∧ s.commands.queue = c :: rest ∧ c.opcodeByte = code

/-- The notice writer's write test (R181): with a notice staged, none in the insertion queue, fewer than 64 slots in use
and the engine NORMAL, the head notice's entry of 32 bytes is made at slot Pn mod 64. -/
def State.noticeTested (s : State) : State :=
  match s.notices.staging with
  | [] => s
  | n :: _ =>
    if (∀ e ∈ s.insQ, e.kind ≠ .notice) ∧ (s.notices.produced - s.notices.consumed).toNat < 64 ∧ s.engine = .normal then
      { s with
        insQ := s.insQ ++ [{
          source := .notice, kind := .notice, row := none,
          addr := BitVec.ofNat 40 (s.straps.toNat * 4294967296 + (0x1000 + 32 * (s.notices.produced.toNat % 64))),
          length := 32, lanes := .all, data := .fixed n.bytes, attempt := 1, age := s.nextAge, state := .queued }],
        nextAge := s.nextAge + 1 }
    else s

/-- A notice staged: it joins the queue's tail with the time and the lost-notice count, which becomes 0, and the write
test follows (R180, R181). -/
def State.noticeStaged (body : NoticeBody) (s : State) : State :=
  State.noticeTested { s with notices := { s.notices with
    staging := s.notices.staging ++ [{ time := s.timeBase, lost := s.notices.lost, body := body }], lost := 0 } }

/-- The state in which the head `c` has left the queue and its COMMAND DONE is staged (R175, R179, R180). -/
def State.answered (s : State) (c : Command) (rest : List Command) (result : CommandResult) (detail : Nat) : State :=
  State.noticeStaged (.commandDone c.serial c.opcodeByte c.feedField result detail)
    { s with commands := { queue := rest, phase := .ready } }

/-- The state without the entry `e` in its queue and with the tag `t` FREE (R162). -/
def State.freed (s : State) (e : InsEntry) (t : Tag) : State :=
  { s with tags := s.tags.set t .free, insQ := s.insQ.filter fun x => decide (x.age ≠ e.age) }

/-- The word states after its count increases: the third columns of R82, R102 and R183. -/
def WordState.moved : WordState → WordState
  | .none => .queued
  | .queued => .queued
  | .issued => .issuedMoved
  | .issuedMoved => .issuedMoved

/-! ### Stating what a header and a close do

Written from the rules and apart from the operations of the machine, which the certificates compare with them. -/

/-- The cursor after the position at an address: 32 bytes on, around the ring (R9). -/
def cursorPast (p : FeedDef) (addr : Addr) : Addr :=
  BitVec.ofNat 40 (if p.ingestBase.toNat + p.ingestSize ≤ addr.toNat + 32 then addr.toNat + 32 - p.ingestSize
    else addr.toNat + 32)

/-- The first position of an entry is examined as a header, in HUNT or at the cursor in AT HEADER, and the entry is no
break (R10, R13, R16). -/
abbrev Feed.meetsHeader (x : Feed) (e : TapEntry) : Prop :=
  x.parse.state = .hunt ∨ (x.parse.state = .atHeader ∧ e.addr = x.parse.cursor ∧ e.afterMiss = false)

/-- The gap of a header's sequence number; a lock has none (R14, R17). -/
def Feed.gapAt (x : Feed) (h : EssenceHeader) : Nat :=
  if x.parse.state = .atHeader then (h.sequence - x.parse.expectedSeq).toNat else 0

/-- A feed with its tracked open frame's record changed, where it has one (R28, R30). -/
def Feed.withOpen (g : FrameRecord → FrameRecord) (x : Feed) : Feed :=
  if x.frame.openFrame = .tracked then
    { x with frame := { x.frame with
        records := x.frame.records.map fun r => if r.state = .opened then g r else r } }
  else x

/-- The open record `n` bytes longer (R41). -/
def Feed.lengthened (n : Nat) : Feed → Feed :=
  Feed.withOpen fun r => { r with frameLength := min 4294967295 (r.frameLength + n) }

/-- A gap counted by the feed and by the open record, which has SEQ GAP set; no gap, no change (R17). -/
def Feed.gapNoted (gap : Nat) (x : Feed) : Feed :=
  if gap = 0 then x
  else Feed.withOpen
    (fun r => { r with sequenceGaps := min 65535 (r.sequenceGaps + gap), conditions := r.conditions ||| 0x0008#16 })
    { x with life := { x.life with counters := { x.life.counters with
        sequenceGaps := min 4294967295 (x.life.counters.sequenceGaps + gap) } } }

/-- A feed after a break: counted, BREAK set, a partly parsed line dropped, HUNT with budget 0 (R11, R25). -/
def Feed.broken (x : Feed) : Feed :=
  Feed.withOpen (fun r => { r with conditions := r.conditions ||| 0x0001#16 }) { x with
    parse := { x.parse with state := .hunt, residue := 0, packet := none, budget := 0 },
    life := { x.life with counters := { x.life.counters with breaks := min 4294967295 (x.life.counters.breaks + 1) } },
    reducer := (match x.parse.packet with
      | some { kind := _, disposition := .lines _ _ word } => if 0 < word then x.reducer.dropLine else x.reducer
      | _ => x.reducer) }

/-- The parse context after the header at an address was handed off and its payload given a disposition (R14, R17, R18,
R20). -/
def Feed.pastHeader (addr : Addr) (h : EssenceHeader) (d : Disposition) (x : Feed) : Feed :=
  { x with parse := {
      state := if h.len = 0 then .atHeader else .inPayload,
      cursor := cursorPast x.params addr, residue := h.len,
      packet := if h.len = 0 then none else some { kind := h.kind, disposition := d },
      expectedSeq := h.sequence + 1, budget := 0 } }

/-- A feed after the 32 payload bytes at an address: the packet ends where none remain (R21, R24, R41). -/
def Feed.pastPayload (addr : Addr) (x : Feed) : Feed :=
  Feed.lengthened 32 { x with parse :=
    if x.parse.residue ≤ 32 then
      { x.parse with state := .atHeader, cursor := cursorPast x.params addr, residue := 0, packet := none }
    else { x.parse with cursor := cursorPast x.params addr, residue := x.parse.residue - 32 } }

/-- Feed `f` of `t` is that of `s` with its context IDLE and nothing else of it moved but a partial line; its tap entries
are purged (R7, R26, R55, R147, R148). -/
def State.stops (f : FeedId) (s t : State) : Prop :=
  ∃ r : Reducer, (r = (s.feed f).reducer ∨ r = (s.feed f).reducer.dropLine) ∧
    t = { s.setFeed f { s.feed f with
        parse := { (s.feed f).parse with state := .idle, residue := 0, packet := none, budget := 0 },
        frame := { (s.feed f).frame with retirePending := false }, missPending := false, reducer := r } with
      tapQ := s.tapQ.filter fun e => decide (e.feed ≠ f) }

/-- A record is not ready (R44). -/
abbrev FrameRecord.unready (r : FrameRecord) : Prop :=
  ¬ (r.state = .closed ∧ (r.slot = none ∨ r.rowsAnswered = r.rowsQueued))

/-- The tracked open frame's record is the newest of the list and the one OPEN record, and the head, where it is another,
is not ready (R28, R45). -/
abbrev Feed.framing (x : Feed) (r : FrameRecord) : Prop :=
  x.frame.openFrame = .tracked ∧ r.state = .opened
    ∧ ∃ front, x.frame.records = front ++ [r] ∧ (∀ q ∈ front, q.state ≠ .opened) ∧ ∀ q ∈ front.head?, q.unready

/-- The entry of a browse header at attempt 1 (R80, R154, R157). -/
def headerEntry (f : FeedId) (p : FeedDef) (slot : Nat) (r : FrameRecord) (age : Nat) : InsEntry :=
  { source := .feed f, kind := .header, row := none, addr := p.browseBase + BitVec.ofNat 40 (slot * p.slotSize),
    length := 64, lanes := .all, data := .fixed (headerBytes f p r), attempt := 1, age := age, state := .queued }

/-- The header of a record being sealed joins the insertion queue, which has a place for it and an engine that is NORMAL
(R80, R156, R157). -/
def State.headerMade (f : FeedId) (slot : Nat) (r : FrameRecord) (s : State) : State :=
  if s.engine = .normal ∧ ∀ e ∈ s.insQ, ¬ (e.source = .feed f ∧ e.kind = .header) then
    { s with insQ := s.insQ ++ [headerEntry f (s.feed f).params slot r s.nextAge], nextAge := s.nextAge + 1 }
  else s

/-- A record whose frame closes, the cause setting `flag` (R40, R42). -/
def FrameRecord.closing (flag : BitVec 16) (peaks : Vector Nat 8) (r : FrameRecord) : FrameRecord :=
  { r with linesMissing := r.height - r.linesReceived, peaks := peaks,
           conditions := r.conditions ||| flag ||| (if r.height ≤ r.linesReceived then 0 else 0x0800#16) }

/-- Up to `n` bands complete, one after another, none once the reducer is IDLE (R56, R65). -/
def bandsComplete (f : FeedId) (n : Nat) (s : State) : State :=
  (List.range n).foldl (fun u _ => if (u.feed f).reducer.mode = .reducing then completeBand f u else u) s

/-- The record list and the open frame of a feed after a close. -/
def State.closedList (f : FeedId) (records : List FrameRecord) (s : State) : State :=
  s.setFeed f { s.feed f with frame := { (s.feed f).frame with records := records, openFrame := .none } }

/-- What becomes of a closed record `q` that is the feed's only one: DONE without browse, SEALING with every row answered,
else CLOSED (R44 to R46, R80). -/
def State.closedAlone (f : FeedId) (q : FrameRecord) (s : State) : State :=
  match q.slot with
  | none =>
    let t := s.setFeed f { s.feed f with life := { (s.feed f).life with counters := { (s.feed f).life.counters with
      browseAbsent := min 4294967295 ((s.feed f).life.counters.browseAbsent + 1) } } }
    stageIndex (indexRecord f (s.feed f).params q) (t.closedList f [])
  | some slot =>
    if q.rowsAnswered = q.rowsQueued then (s.headerMade f slot q).closedList f [{ q with state := .sealing }]
    else s.closedList f [{ q with state := .closed }]

/-- The close of a feed's newest record `r`, the tracked open frame's, the cause setting `flag`: its fields are fixed, the
bands that remain of a frame with browse complete, and it is CLOSED behind the others, or goes on where it is alone (R42,
R45, R65). -/
def State.closedNewest (f : FeedId) (flag : BitVec 16) (r : FrameRecord) (s : State) : State :=
  let x := s.feed f
  let records := x.frame.records.dropLast ++ [r.closing flag x.frame.peaks]
  let banded := if r.slot = none then s.setFeed f { x with frame := { x.frame with records := records } }
    else bandsComplete f (r.height / x.params.decimation - x.reducer.band) (s.setFeed f { x with
      frame := { x.frame with records := records }, reducer := x.reducer.dropLine })
  let front := (banded.feed f).frame.records.dropLast
  match front, (banded.feed f).frame.records.getLast? with
  | [], some q => banded.closedAlone f q
  | _ :: _, some q => banded.closedList f (front ++ [{ q with state := .closed }])
  | _, none => banded

/-! ### Stating what becomes of row writes -/

/-- An item with the part a row reference names ANSWERED. -/
def RowItem.answeredAt (ref : RowRef) (i : RowItem) : RowItem :=
  if i.ident = ref.item then
    { i with parts := i.parts.map fun p => if p.index = ref.part then { p with state := .answered } else p }
  else i

/-- `r'` is the row store `r` after the items that `gone` names have left the list, what stays of each being `g` of it:
a use count falls by one for each item gone, and no buffer's bytes move (R69). -/
abbrev RowStore.leaves (gone : RowItem → Bool) (g : RowItem → RowItem) (r r' : RowStore) : Prop :=
  r'.items = (r.items.filter fun i => !gone i).map g
    ∧ ∀ b : BufferId, (r'.buffer b).cells = (r.buffer b).cells
      ∧ (r'.buffer b).useCount = (r.buffer b).useCount - r.items.countP fun i => gone i && decide (i.buffer = b)

/-- A row part is answered: an item whose parts are then all ANSWERED has ended (R69, R72, R75). -/
abbrev RowStore.answers (ref : RowRef) (r r' : RowStore) : Prop :=
  r.leaves (fun i => (i.answeredAt ref).parts.all fun p => decide (p.state = .answered)) (RowItem.answeredAt ref) r'

/-- The parts left of an item dealt with: the ISSUED ones ORPHANED, the ANSWERED and ORPHANED ones, and not the part
`lost`, which failed for good (R74, logs 18 and 25). -/
def RowItem.partsDealt (lost : Option RowRef) (i : RowItem) : List RowPart :=
  (i.parts.filter fun p => decide (p.state ≠ .waiting ∧ p.state ≠ .queued ∧ lost ≠ some { item := i.ident, part := p.index })).map
    fun p => if p.state = .issued then { p with state := .orphaned } else p

/-- An item dealt with, where `which` names it (R74). -/
def RowItem.dealt (which : RowItem → Bool) (lost : Option RowRef) (i : RowItem) : RowItem :=
  if which i then { i with parts := i.partsDealt lost, standing := .orphaned } else i

/-- The items that `which` names are dealt with: one with a part ORPHANED stays and is ORPHANED, every other leaves
(R69, R74). -/
abbrev RowStore.deals (which : RowItem → Bool) (lost : Option RowRef) (r r' : RowStore) : Prop :=
  r.leaves (fun i => (i.dealt which lost).parts.all fun p => decide (p.state = .answered)) (RowItem.dealt which lost) r'

/-! ### Stating the layouts -/

/-- A record of `size` bytes holds each of `fields`, an offset, a width in bytes and a value taken modulo that width
(chapter 11). -/
abbrev recordHolds (record : List Byte) (size : Nat) (fields : List (Nat × Nat × Nat)) : Prop :=
  record.length = size ∧ ∀ q ∈ fields, fieldAt record q.1 q.2.1 = q.2.2 % 256 ^ q.2.1

/-- The entry of a word the part writes, at attempt 1 (R82, R102, R154, R155, R183). -/
def WordId.entry (w : WordId) (age : Nat) (s : State) : InsEntry :=
  let block (offset : Nat) : Addr := BitVec.ofNat 40 (s.straps.toNat * 4294967296 + offset)
  match w with
  | .publish f =>
    { source := .feed f, kind := .publishWord, row := none, addr := block (0x1840 + 32 * (f.val / 8)), length := 32,
      lanes := .four (4 * (f.val % 8)), data := .word (s.feed f).publisher.published, attempt := 1, age := age,
      state := .queued }
  | .catalogue =>
    { source := .catalogue, kind := .catalogueWord, row := none, addr := block 0x1800, length := 32, lanes := .four 4,
      data := .word s.catalogue.produced, attempt := 1, age := age, state := .queued }
  | .notice =>
    { source := .notice, kind := .noticeWord, row := none, addr := block 0x1800, length := 32, lanes := .four 0,
      data := .word s.notices.produced, attempt := 1, age := age, state := .queued }

end Sys2Proof.Machine
end

