-- ==== Sys2Proof/Certificates/Slice0/Obligations.lean ====
section
/-! DEFINITION. The statements for the provers: what each command does, what it leaves as it was, and what every
step keeps. Each docstring names the sentences of the manual it formalises. -/

open Sys2Proof Sys2Proof.Machine

/-! ### The part as a whole -/

/-- A step runs the front command on the state with the queue's rest; on an empty queue the block idles, which
is the model's choice (log 2). -/
def Obligations.StepRunsFront : Prop :=
  (∀ (c : Instr) (rest : List Instr) (s : State), s.pending = c :: rest →
      step s = exec c { s with pending := rest })
    ∧ ∀ s : State, s.pending = [] → step s = .next s

/-- Every command, well-formed or not, answers a next state and leaves the commands that wait (State.pending, the model's
own queue, not the command queue of chapter 9.2) as they were: the part has no stop (chapters 6.6 and 9.6). That a step
whose conditions fail answers too, and that the waiting commands are kept, POWER_ON_RESET's among them, are the model's
choices (logs 1 and 27). -/
def Obligations.ExecAnswersNext : Prop :=
  ∀ (c : Instr) (s : State), ∃ t : State, exec c s = .next t ∧ t.pending = s.pending

/-- The state after reset meets every invariant of Sys2Proof/Safety.lean; that the row buffers' bytes are 0 there is
the model's choice (log 9), and so are the straps (log 8). -/
def Obligations.ResetMeetsInvariants : Prop :=
  State.reset.withinCapacity ∧ State.reset.buffersWf ∧ State.reset.quotasKept ∧ State.reset.agesRise
    ∧ State.reset.tagsAgree ∧ State.reset.publishing ∧ State.reset.rowsCounted
    ∧ State.reset.catalogueWindow ∧ State.reset.noticeWindow ∧ State.reset.windowsApart

/-- POWER_ON_RESET (chapters 7.7 and 9.6): every block at its reset values, the straps sampled, the time base
0, both lines deasserted, and the bytes of the row buffers not cleared. -/
def Obligations.PowerOnReset : Prop :=
  ∀ (v : BitVec 8) (s : State), ∃ t : State, exec (.powerOnReset v) s = .next t
    ∧ t.straps = v ∧ t.timeBase = 0 ∧ t.forwardQ = [] ∧ t.tapQ = [] ∧ (∀ u : Tag, t.tags[u] = .free)
    ∧ t.insQ = [] ∧ t.credit = 0 ∧ t.catalogue = Catalogue.reset
    ∧ t.commands = { queue := [], phase := .ready }
    ∧ t.notices = { staging := [], produced := 0, consumed := 0, lost := 0, word := .none }
    ∧ t.engine = .normal ∧ t.attention = false ∧ t.faultLine = false
    ∧ ∀ f : FeedId, (t.feed f).life = Lifecycle.reset ∧ (t.feed f).ingest = none ∧ (t.feed f).browse = none
        ∧ (t.feed f).missPending = false ∧ (t.feed f).parse = ParseContext.reset
        ∧ (t.feed f).frame = FrameUnit.reset ∧ (t.feed f).reducer = Reducer.reset
        ∧ (t.feed f).publisher = Publisher.reset ∧ (t.feed f).rows.items = []
        ∧ (t.feed f).rows.buffer0 = { useCount := 0, cells := (s.feed f).rows.buffer0.cells }
        ∧ (t.feed f).rows.buffer1 = { useCount := 0, cells := (s.feed f).rows.buffer1.cells }

/-- The time base increases by one at a tick, in a step that changes nothing else, and is set to zero only by
power-on reset; the straps are sampled only there; the forward queue moves only at an acceptance, a forward issue
and power-on reset (chapters 7.3, 7.5, 9.1). That the time base wraps after 2^64 − 1 is the model's choice (log
10). -/
def Obligations.OutsideKept : Prop :=
  (∀ s : State, exec .timeBaseTick s = .next { s with timeBase := s.timeBase + 1 })
    ∧ ∀ (c : Instr) (s t : State), exec c s = .next t → (∀ v, c ≠ .powerOnReset v) →
        t.straps = s.straps ∧ (c ≠ .timeBaseTick → t.timeBase = s.timeBase)
          ∧ (c ≠ .forwardIssue → (∀ r, c ≠ .fabricRequestAccept r) → t.forwardQ = s.forwardQ)

/-! ### Acceptance -/

/-- A read, or a write that keeps the 4 KiB rule and is of class other or catalogue, or of the ingest window of a
feed whose context is IDLE, is forwarded and does nothing else; a request that finds the forward queue full, or a
capture that finds the command queue full, is not accepted and changes nothing (chapters 7.1 and 7.2; that the
command is then gone from the queue is the model's choice, log 3). A request keeps the rule where its length is 32 to 4096
bytes, in steps of 32, its address a multiple of 32, and its bytes in one block of 4096. -/
def Obligations.AcceptForwards : Prop :=
  (∀ (r : FabricRequest) (s : State), s.forwardQ.length < 32 →
      ((∃ n, r.body = .read n) ∨ ∃ lanes, r.body = .write lanes ∧ keepsRule r = true
        ∧ (classify s r.addr = .other ∨ classify s r.addr = .catalogue
            ∨ ∃ f, classify s r.addr = .ingest f ∧ (s.feed f).parse.state = .idle)) →
      exec (.fabricRequestAccept r) s = .next { s with forwardQ := s.forwardQ ++ [r] })
    ∧ (∀ (r : FabricRequest) (s : State),
        32 ≤ s.forwardQ.length ∨ ((captureOf s r).isSome ∧ 8 ≤ s.commands.queue.length) →
        exec (.fabricRequestAccept r) s = .next s)
    ∧ ∀ r : FabricRequest, keepsRule r = true ↔
        (∃ k, 1 ≤ k ∧ k ≤ 128 ∧ r.body.length = 32 * k) ∧ r.addr.toNat % 32 = 0
          ∧ r.addr.toNat / 4096 = (r.addr.toNat + r.body.length - 1) / 4096

/-- A whole 64-byte write of a command slot is forwarded and captured at the tail of the command queue, and
does nothing else; no other request is a capture (chapters 7.1 and 9.2). Of a record the opcode is byte 0, the
feed field byte 1, the serial bytes 2 and 3, and the mode of a RETIRE byte 4, AT FRAME END where it is 1 and NOW
where it is 2 (chapter 11.1). -/
def Obligations.AcceptCaptures : Prop :=
  (∀ (k : Nat) (data : List Byte) (r : FabricRequest) (s : State), k < 32 → data.length = 64 →
    r.addr = BitVec.ofNat 40 (s.straps.toNat * 4294967296 + 64 * k) →
    r.body = .write (data.map fun b => { data := b, enable := true }) →
    s.forwardQ.length < 32 → s.commands.queue.length < 8 →
    exec (.fabricRequestAccept r) s = .next { s with
      forwardQ := s.forwardQ ++ [r],
      commands := { s.commands with queue := s.commands.queue ++ [{ bytes := data }] } })
    ∧ (∀ (r : FabricRequest) (s : State) (c : Command), captureOf s r = some c ↔
        c.bytes.length = 64 ∧ r.body = .write (c.bytes.map fun b => { data := b, enable := true })
          ∧ ∃ k, k < 32 ∧ r.addr = BitVec.ofNat 40 (s.straps.toNat * 4294967296 + 64 * k))
    ∧ ∀ (b0 b1 b2 b3 b4 : Byte) (more : List Byte),
        let c : Command := { bytes := b0 :: b1 :: b2 :: b3 :: b4 :: more }
        c.opcodeByte = b0 ∧ c.feedField = b1 ∧ c.serial.toNat = b2.toNat + 256 * b3.toNat
          ∧ (c.retireMode = some .atFrameEnd ↔ b4 = 1) ∧ (c.retireMode = some .now ↔ b4 = 2)

/-- A write into the ingest window of a running feed is tapped where all its lanes are enabled and the tap queue
has room, with the miss-pending flag as its after-miss mark, and is else a counted tap miss; either way it is an
arrival, with FEED RESTORED for an ABSENT feed (chapters 6.4 and 7.6). -/
def Obligations.IngestWrite : Prop :=
  ∀ (f : FeedId) (r : FabricRequest) (lanes : List Lane) (s : State), s.forwardQ.length < 32 →
    r.body = .write lanes → keepsRule r = true → classify s r.addr = .ingest f →
    (s.feed f).parse.state ≠ .idle →
    let x := s.feed f
    let tapped := lanes.all Lane.enable && decide (s.tapQ.length < 64)
    let moved : State := { s.setFeed f { x with
          missPending := !tapped,
          life := { x.life with
            lastArrival := s.timeBase, presence := .present,
            counters := if tapped then x.life.counters
              else { x.life.counters with tapMisses := min 4294967295 (x.life.counters.tapMisses + 1) } } } with
        forwardQ := s.forwardQ ++ [r],
        tapQ := if tapped then s.tapQ ++ [{
            feed := f, addr := r.addr, data := lanes.map Lane.data, stamp := s.timeBase, afterMiss := x.missPending }] else s.tapQ }
    exec (.fabricRequestAccept r) s = .next
      (if x.life.presence = .absent then stageEvent (.feedRestored f s.timeBase) moved else moved)

/-- A write that breaks the 4 KiB rule is forwarded; it is a tap miss and an arrival for each running feed whose
ingest window it meets, each ABSENT one of them staging FEED RESTORED, and does nothing else: no capture, no tap, no snoop
(chapters 6.4 and 7.1). The manual gives those notices no order: ascending feed numbers are the model's choice (log 30).
That the write's range does not wrap past the last address is the model's choice too (log 23). Ages are the model's own
numbers (log 11). -/
def Obligations.BrokenWrite : Prop :=
  ∀ (r : FabricRequest) (lanes : List Lane) (s : State), s.forwardQ.length < 32 → r.body = .write lanes →
    keepsRule r = false →
    let missed (f : FeedId) : Bool := decide ((s.feed f).parse.state ≠ .idle)
      && (s.feed f).ingest.any fun w => rangesShare w.base.toNat w.size r.addr.toNat lanes.length
    let restored := (List.finRange 16).filter fun f => missed f && decide ((s.feed f).life.presence = .absent)
    let told : State := restored.foldl (fun u f => stageEvent (.feedRestored f s.timeBase) u) s
    ∃ t : State, exec (.fabricRequestAccept r) s = .next t
      ∧ t = { s with
          forwardQ := s.forwardQ ++ [r], notices := told.notices, insQ := told.insQ, nextAge := told.nextAge,
          feeds := t.feeds }
      ∧ ∀ f : FeedId, t.feed f =
          if missed f then
            { s.feed f with
              missPending := true,
              life := { (s.feed f).life with
                lastArrival := s.timeBase, presence := .present,
                counters := { (s.feed f).life.counters with
                  tapMisses := min 4294967295 ((s.feed f).life.counters.tapMisses + 1) } } }
          else s.feed f

/-- A write into a browse region is forwarded and sets INTRUDED in the condition set of the record that holds the
slot it lands in, and does nothing else (chapter 4.5). -/
def Obligations.IntrudingWrite : Prop :=
  ∀ (f : FeedId) (r : FabricRequest) (lanes : List Lane) (s : State), s.forwardQ.length < 32 →
    r.body = .write lanes → keepsRule r = true → classify s r.addr = .browse f →
    let x := s.feed f
    let slot := (r.addr.toNat - x.params.browseBase.toNat) / x.params.slotSize
    exec (.fabricRequestAccept r) s = .next
      { s.setFeed f { x with frame := { x.frame with
          records := x.frame.records.map fun q =>
            if q.slot = some slot then { q with conditions := q.conditions ||| 0x1000#16 } else q } } with
        forwardQ := s.forwardQ ++ [r] }

/-- A control-block write that is no capture is forwarded; each watched word that it covers with all four lanes
enabled goes to its owner, and it does nothing else (chapter 9.1). A change of Cn may make a notice's entry (chapter 9.4),
and one of Rc may start a batch (chapter 5.6). Ages are the model's own numbers (log 11). -/
def Obligations.ControlWriteSnooped : Prop :=
  ∀ (r : FabricRequest) (lanes : List Lane) (s : State), s.forwardQ.length < 32 → r.body = .write lanes →
    keepsRule r = true → inControl s r.addr = true → captureOf s r = none →
    let noticed : State := match snooped s r.addr lanes 0x0800 with
      | some v => noticeConsumer v s
      | none => s
    let told : State := match snooped s r.addr lanes 0x0804 with
      | some v => catalogueConsumer v noticed
      | none => noticed
    (∃ t : State, exec (.fabricRequestAccept r) s = .next t
      ∧ t = { s with
          forwardQ := s.forwardQ ++ [r], notices := told.notices, catalogue := told.catalogue, insQ := told.insQ,
          nextAge := told.nextAge, feeds := t.feeds }
      ∧ ∀ f : FeedId, t.feed f = match snooped s r.addr lanes (0x0840 + 4 * f.val) with
          | some v => releaseValue v (s.feed f)
          | none => s.feed f)
      ∧ ∀ (offset : Nat) (v : Count), snooped s r.addr lanes offset = some v ↔
          r.addr.toNat ≤ s.controlBase + offset ∧ ∃ a b c d : Byte,
            (lanes.drop (s.controlBase + offset - r.addr.toNat)).take 4 = [⟨a, true⟩, ⟨b, true⟩, ⟨c, true⟩, ⟨d, true⟩]
              ∧ v.toNat = a.toNat + 256 * b.toNat + 65536 * c.toNat + 16777216 * d.toNat

/-- R85 and R86: a release write for a VACANT feed is ignored; for any other, R becomes `v` when
0 < (v − R) mod 2^32 ≤ (P − R) mod 2^32, and else the write is ignored and counted, saturating. -/
def Obligations.ReleaseTest : Prop :=
  ∀ (v : Count) (x : Feed),
    let inWindow := 0 < (v - x.publisher.released).toNat
      ∧ (v - x.publisher.released).toNat ≤ (x.publisher.published - x.publisher.released).toNat
    (x.life.state = .vacant → releaseValue v x = x)
      ∧ (x.life.state ≠ .vacant → inWindow →
          releaseValue v x = { x with publisher := { x.publisher with released := v } })
      ∧ (x.life.state ≠ .vacant → ¬ inWindow →
          releaseValue v x = { x with life := { x.life with counters := { x.life.counters with
            badReleases := min 4294967295 (x.life.counters.badReleases + 1) } } })
      ∧ (inWindow → (x.publisher.published - v).toNat < (x.publisher.published - x.publisher.released).toNat)

/-- The notice and the catalogue consumer words are taken by the same test against their own counts and ignored
else; the ATTENTION line and the write test of chapter 9.4 follow a change of Cn, and the batch start test of chapter 5.4 one
of Rc (chapters 5.6, 9.1 and 9.5). The test is stated as BATCH_START, which is that test as a step of its own by the
model's choice (log 5). -/
def Obligations.ConsumerTests : Prop :=
  ∀ (v : Count) (s : State),
    (0 < (v - s.notices.consumed).toNat
        ∧ (v - s.notices.consumed).toNat ≤ (s.notices.produced - s.notices.consumed).toNat →
      noticeConsumer v s = State.noticeTested { s with notices := { s.notices with consumed := v } }
        ∧ (noticeConsumer v s).notices.consumed = v ∧ ((noticeConsumer v s).attention = true ↔ s.notices.produced ≠ v))
      ∧ (¬ (0 < (v - s.notices.consumed).toNat
            ∧ (v - s.notices.consumed).toNat ≤ (s.notices.produced - s.notices.consumed).toNat) →
          noticeConsumer v s = s)
      ∧ (s.catalogue.defn ≠ none ∧ 0 < (v - s.catalogue.consumed).toNat
          ∧ (v - s.catalogue.consumed).toNat ≤ (s.catalogue.produced - s.catalogue.consumed).toNat →
          exec .batchStart { s with catalogue := { s.catalogue with consumed := v } } = .next (catalogueConsumer v s)
            ∧ (catalogueConsumer v s).catalogue.consumed = v)
      ∧ (¬ (s.catalogue.defn ≠ none ∧ 0 < (v - s.catalogue.consumed).toNat
            ∧ (v - s.catalogue.consumed).toNat ≤ (s.catalogue.produced - s.catalogue.consumed).toNat) →
          catalogueConsumer v s = s)

/-! ### Issue and answer -/

/-- FORWARD_ISSUE (chapters 7.3, 8.4): a head that no QUEUED entry's range meets, granted the slot, leaves the
queue unaltered on the lowest FREE tag, which holds its master tag and direction; the credit count goes up by one
while an entry is QUEUED and else becomes 0. Nothing else changes. That the slot is free at every grant and that memPort
shows the request are the model's choices (log 6), and so is that ranges do not wrap past the last address (log 23). -/
def Obligations.ForwardIssue : Prop :=
  ∀ (s : State) (r : FabricRequest) (rest : List FabricRequest) (t : Tag), s.forwardQ = r :: rest →
    (∀ e ∈ s.insQ, e.state = .queued → rangesShare r.addr.toNat r.body.length e.addr.toNat e.length = false) →
    s.lowestTag t → ((∀ e ∈ s.insQ, e.state ≠ .queued) ∨ s.credit < 8) →
    exec .forwardIssue s = .next { s with
      forwardQ := rest,
      tags := s.tags.set t (.forward r.master (bodyDirection r.body)),
      credit := if s.insQ.any (fun e => decide (e.state = .queued)) then s.credit + 1 else 0,
      memPort := some { tag := t, addr := r.addr, body := .forwarded r.body } }

/-- The arbiter's refusals (chapters 7.3 and 8.4). No forwarded request is issued while a QUEUED entry's byte range
overlaps it, while the forward queue is empty or no tag is FREE, or while the credit count is 8 and an entry is QUEUED. No
entry is issued while none is QUEUED or no tag is FREE, or while the forward head is held by none and the credit count is
below 8. That a range does not wrap past the last address is the model's choice (log 23). The model's test of two ranges is
that some address lies in both. That a step whose conditions fail changes nothing is the model's choice (log 1). -/
def Obligations.NoIssueUnderHold : Prop :=
  (∀ s : State,
    ((∃ r rest e, s.forwardQ = r :: rest ∧ e ∈ s.insQ ∧ e.state = .queued
        ∧ rangesMeet r.addr.toNat r.body.length e.addr.toNat e.length)
      ∨ s.forwardQ = [] ∨ (∀ u : Tag, s.tags[u] ≠ .free) ∨ (s.credit = 8 ∧ ∃ e ∈ s.insQ, e.state = .queued)) →
    exec .forwardIssue s = .next s)
    ∧ (∀ s : State,
      ((∀ e ∈ s.insQ, e.state ≠ .queued) ∨ (∀ u : Tag, s.tags[u] ≠ .free)
        ∨ (s.credit < 8 ∧ ∃ r rest, s.forwardQ = r :: rest ∧ ∀ e ∈ s.insQ, e.state = .queued →
            ¬ rangesMeet r.addr.toNat r.body.length e.addr.toNat e.length)) →
      exec .insertionIssue s = .next s)
    ∧ ∀ a la b lb : Nat, rangesShare a la b lb = true ↔ rangesMeet a la b lb

/-- A write's answer on the FORWARD tag of a write, or a read's on that of a read, is returned upstream as it
arrives, with the master tag the tag held, and the tag becomes FREE; nothing else changes (chapter 7.4). The port that
shows the response is the model's own field (log 6), and what becomes of an answer of the other form, left out here, its
choice (log 26). -/
def Obligations.ForwardAnswer : Prop :=
  ∀ (t : Tag) (a : Answer) (m : MasterTag) (d : Direction) (s : State), s.tags[t] = .forward m d →
    (d = .write ∧ (∃ status, a = .write status) ∨ d = .read ∧ ∃ bytes status, a = .read bytes status) →
    exec (.forwardAnswer t a) s = .next { s with
      tags := s.tags.set t .free, fabricPort := some { master := m, answer := a } }

/-- INSERTION_ISSUE (chapters 8.1, 8.3 and 8.4): of the QUEUED entries the first by class, priority and age is issued on
the lowest FREE tag where there is no forward candidate or the credit count is 8. It becomes ISSUED with the bytes it
holds, a row's read from its buffer, the tag INSERTION, the credit count 0; a row part and a word become ISSUED with it,
and nothing else changes. That the slot is free at every grant and memPort shows the request is the model's choice (log 6),
and so is that a disabled lane carries no data (log 7). So is that ranges do not wrap past the last address (log 23).
That the tag holds its entry no second time is deduced (log 13). -/
def Obligations.InsertionIssue : Prop :=
  ∀ (s : State) (e : InsEntry) (t : Tag), s.agesRise → e ∈ s.insQ → e.state = .queued →
    let rank (x : InsEntry) : Nat := match x.source with
      | .notice => 0
      | .catalogue => 1
      | .report => 2
      | .feed f => 6 - (s.feed f).params.priority
    (∀ x ∈ s.insQ, x.state = .queued → rank e < rank x ∨ (rank e = rank x ∧ e.age ≤ x.age)) →
    s.lowestTag t →
    ((∀ r rest, s.forwardQ = r :: rest → ∃ x ∈ s.insQ, x.state = .queued
        ∧ rangesMeet r.addr.toNat r.body.length x.addr.toNat x.length) ∨ s.credit = 8) →
    let bytes : List Byte := match e.data, e.source with
      | .fixed given, _ => given
      | .word v, _ => [BitVec.ofNat 8 v.toNat, BitVec.ofNat 8 (v.toNat / 256), BitVec.ofNat 8 (v.toNat / 65536),
          BitVec.ofNat 8 (v.toNat / 16777216)]
      | .buffer b offset, .feed f =>
          (List.range e.length).map fun i => readCell ((s.feed f).rows.buffer b).cells (offset + i)
      | .buffer _ _, _ => []
    let lanes : List (Option Byte) := match e.lanes with
      | .all => bytes.map some
      | .four offset => List.replicate offset none ++ bytes.map some ++ List.replicate (e.length - offset - 4) none
    let u : State := { s with
      insQ := s.insQ.map fun x => if x.age = e.age then { x with state := .issued t } else x,
      tags := s.tags.set t .insertion, credit := 0,
      memPort := some { tag := t, addr := e.addr, body := .inserted lanes } }
    (e.kind = .header ∨ e.kind = .batch ∨ e.kind = .notice ∨ e.kind = .statusRecord →
        exec .insertionIssue s = .next u)
      ∧ (∀ w : WordId, e.word = some w → exec .insertionIssue s = .next (setWord w .issued u))
      ∧ ∀ (f : FeedId) (ref : RowRef), e.kind = .row → e.source = .feed f → e.row = some ref →
          exec .insertionIssue s = .next
            (u.modFeed f fun x => { x with rows := x.rows.markPart ref .issued })

/-- An ERROR answer below the fourth attempt, the engine NORMAL, returns the entry to QUEUED with its attempt count
raised and its age, address, length and lanes kept; a word takes its present count, and the source is told. The tag
is FREE and nothing else changes (chapter 8.5). -/
def Obligations.ErrorRetries : Prop :=
  ∀ (s : State) (e : InsEntry) (t : Tag), s.inFlight e t → s.engine = .normal → e.attempt < 4 →
    let back (d : DataRef) : State := { s with
      tags := s.tags.set t .free,
      insQ := s.insQ.map fun x =>
        if x.age = e.age then { x with state := .queued, attempt := x.attempt + 1, data := d } else x }
    (e.kind = .header ∨ e.kind = .batch ∨ e.kind = .notice ∨ e.kind = .statusRecord →
        exec (.insertionAnswer t .error) s = .next (back e.data))
      ∧ (∀ w : WordId, e.word = some w →
          exec (.insertionAnswer t .error) s = .next (setWord w .queued (back (.word (w.value s)))))
      ∧ ∀ (f : FeedId) (ref : RowRef), e.kind = .row → e.source = .feed f → e.row = some ref →
          exec (.insertionAnswer t .error) s = .next
            ((back e.data).modFeed f fun x => { x with rows := x.rows.markPart ref .queued })

/-- A final failure of a feed's entry faults that feed alone (chapters 3.4, 4.2, 4.3, 6.6 and 8.5): the fault word holds the
cause, its records are discarded and A is P, its parser stops and its reducer is IDLE, none of its entries or tap entries
stays, the tags of its other ISSUED entries are ORPHANED, its row writes are dealt with, stale is set where another
publish-word entry went, an ACTIVE or SUSPENDED feed becomes FAULTED, a DRAINING one counts the records discarded, and the
notice is staged.
Deduced: that the publish word is then NONE (log 16), that the failed publish-word entry itself does not set stale (log
17), that a failed row part leaves its item first (log 18), and that a dropped part leaves its item (log 25). Ages are
the model's own numbers (log 11). -/
def Obligations.FinalFailureFaultsFeed : Prop :=
  ∀ (s : State) (e : InsEntry) (t : Tag) (f : FeedId), s.inFlight e t → s.engine = .normal → e.attempt = 4 →
    e.source = .feed f → kindFits e.source e.kind = true →
    let x := s.feed f
    let cause : FaultCause := if e.kind = .publishWord then .publishWriteFailed else .browseWriteFailed
    let gone := x.frame.records.length
    let told := stageEvent (.feedFault f cause gone) { s with insQ := s.insQ.filter fun y => decide (y.source ≠ .feed f) }
    ∃ u : State, exec (.insertionAnswer t .error) s = .next u
      ∧ (u.feed f).life.fault = some { first := cause, furtherBrowse := false }
      ∧ (x.life.state = .active ∨ x.life.state = .suspended → (u.feed f).life.state = .faulted)
      ∧ (x.life.state = .draining → (u.feed f).life.state = .draining
          ∧ ∀ d, x.life.drain = some d →
              (u.feed f).life.drain = some { d with discarded := min 65535 (d.discarded + gone) })
      ∧ (u.feed f).frame.records = [] ∧ (u.feed f).frame.openFrame = .none
      ∧ (u.feed f).frame.retirePending = false ∧ (u.feed f).parse.state = .idle
      ∧ (u.feed f).parse.packet = none ∧ (u.feed f).reducer.mode = .idle ∧ (u.feed f).missPending = false
      ∧ (u.feed f).publisher = { x.publisher with
          assigned := x.publisher.published, word := .none,
          stale := x.publisher.stale || s.insQ.any fun y =>
            decide (y ≠ e) && decide (y.source = .feed f) && decide (y.kind = .publishWord) }
      ∧ x.rows.deals (fun _ => true) (if e.kind = .row then e.row else none) (u.feed f).rows
      ∧ u.insQ = told.insQ ∧ u.nextAge = told.nextAge ∧ u.notices = told.notices ∧ u.tags[t] = .free
      ∧ (∀ y ∈ s.insQ, ∀ v : Tag, y ≠ e → y.source = .feed f → y.state = .issued v →
          (∀ z ∈ s.insQ, z.state = .issued v → z = y) → u.tags[v] = .orphaned ⟨y.source, y.kind, y.row⟩)
      ∧ (∀ v : Tag, v ≠ t → (∀ y ∈ s.insQ, y.source = .feed f → y.state ≠ .issued v) → u.tags[v] = s.tags[v])
      ∧ u.tapQ = s.tapQ.filter (fun y => decide (y.feed ≠ f))
      ∧ (∀ g : FeedId, g ≠ f → u.feed g = s.feed g)
      ∧ u.engine = .normal ∧ u.credit = s.credit ∧ u.catalogue = s.catalogue ∧ u.commands = s.commands
      ∧ u.forwardQ = s.forwardQ

/-- A final failure of an entry of the catalogue, the notice writer or the report source enters CONTROL PATH FAILED
(chapters 3.4, 4.7, 5.8, 9.6): FAULT is asserted, every QUEUED entry is removed and the other ISSUED ones kept, the credit
count is 0, every tap entry is purged, every context and reducer is IDLE. QUEUED row parts are dropped, and an item left with
no part WAITING, ISSUED or ORPHANED ends, its buffer's use count falling. No batch is in flight but one ISSUED, a word whose
entry went is NONE, and a head that was reporting is gone. Feeds keep their lifecycle, records and counts; nothing else
changes. Deduced: the state of a failed word (log 16), that the open frame stays (log 19), that an IDLE reducer keeps its
band and line count (log 20), and that a dropped part leaves its item (log 25). -/
def Obligations.FinalFailureFailsEngine : Prop :=
  ∀ (s : State) (e : InsEntry) (t : Tag), s.inFlight e t → s.engine = .normal → e.attempt = 4 →
    (e.source = .catalogue ∨ e.source = .notice ∨ e.source = .report) →
    let left (w : WordState) (kind : EntryKind) : WordState := if e.kind = kind ∨ w = .queued then .none else w
    ∃ u : State, exec (.insertionAnswer t .error) s = .next u ∧ u.faultLine = true
      ∧ u = { s with
          engine := .controlPathFailed, tags := s.tags.set t .free,
          insQ := s.insQ.filter fun x => decide (x.age ≠ e.age) && decide (x.state ≠ .queued),
          credit := 0, tapQ := [],
          catalogue := { s.catalogue with
            batch := if e.kind ≠ .batch ∧ ∃ x ∈ s.insQ, x.age ≠ e.age ∧ x.kind = .batch ∧ x.state ≠ .queued then
                s.catalogue.batch else none,
            word := left s.catalogue.word .catalogueWord },
          notices := { s.notices with word := left s.notices.word .noticeWord },
          commands := if s.commands.phase = .ready then s.commands
            else { queue := s.commands.queue.tail, phase := .ready },
          feeds := u.feeds }
      ∧ ∀ f : FeedId,
          let x := s.feed f
          u.feed f = { x with
              parse := { x.parse with state := .idle, residue := 0, packet := none, budget := 0 },
              frame := { x.frame with retirePending := false }, missPending := false,
              reducer := { x.reducer with
                mode := .idle, line := none, lineLuma := [], lineChroma := [], bandLuma := [], bandChroma := [],
                reference := none },
              publisher := { x.publisher with
                word := if x.publisher.word = .queued then .none else x.publisher.word },
              rows := (u.feed f).rows }
            ∧ x.rows.leaves (fun i => i.parts.all fun p => decide (p.state = .answered ∨ p.state = .queued))
                (fun i => { i with parts := i.parts.filter fun p => decide (p.state ≠ .queued) }) (u.feed f).rows

/-- An answer in CONTROL PATH FAILED, OK or ERROR alike (chapters 4.7, 5.8, 8.6, 9.6): the entry leaves the queue and
its tag is FREE. Of a row part's answer the row store alone hears: its item may end, the buffer's use count falling; a
word's state becomes NONE; no batch is in flight after a batch's. Nothing else changes, and nothing is retried. That a
word is then NONE (log 16) and that a dropped part is no longer in its item (log 25) is deduced. The items' names are
the model's own numbers (log 11). -/
def Obligations.AnswerInFailedEngine : Prop :=
  ∀ (s : State) (e : InsEntry) (t : Tag) (status : AnswerStatus), s.inFlight e t →
    s.engine = .controlPathFailed →
    (e.kind = .header ∨ e.kind = .notice ∨ e.kind = .statusRecord →
        exec (.insertionAnswer t status) s = .next (s.freed e t))
      ∧ (e.kind = .batch → exec (.insertionAnswer t status) s = .next { s.freed e t with
          catalogue := { s.catalogue with batch := none } })
      ∧ (∀ w : WordId, e.word = some w →
          exec (.insertionAnswer t status) s = .next (setWord w .none (s.freed e t)))
      ∧ ∀ (f : FeedId) (ref : RowRef), e.kind = .row → e.source = .feed f → e.row = some ref →
          ∃ rows : RowStore, (s.feed f).rows.answers ref rows
            ∧ exec (.insertionAnswer t status) s = .next ((s.freed e t).setFeed f { s.feed f with rows := rows })

/-- The header of the SEALING head answered without error (chapters 2.7, 4.4): P increases by one and the publish word is
brought up to date; the record is DONE, counted as published, and its index record goes to the catalogue writer, and then
each ready record without browse behind it is DONE in turn, counted as browse absent. The first that is not stays; where
it is ready it has browse, its header's entry is made and it is SEALING. Nothing else changes. Ages are the model's own
numbers (log 11). -/
def Obligations.HeaderAnswered : Prop :=
  ∀ (s : State) (e : InsEntry) (t : Tag) (f : FeedId) (r : FrameRecord) (gone kept : List FrameRecord),
    s.inFlight e t → s.engine = .normal → e.kind = .header → e.source = .feed f →
    (s.feed f).frame.records = r :: gone ++ kept → r.state = .sealing → r.slot ≠ none →
    (∀ q ∈ gone, q.slot = none ∧ q.state = .closed) →
    (∀ q ∈ kept.head?, q.unready ∨ q.slot ≠ none) →
    let x := s.feed f
    let moved := updateWord (.publish f) ((s.freed e t).setFeed f { x with
      publisher := { x.publisher with published := x.publisher.published + 1 } })
    let staged := (r :: gone).foldl (fun v q => stageIndex (indexRecord f x.params q) v) moved
    let counters := { x.life.counters with
      framesPublished := min 4294967295 (x.life.counters.framesPublished + 1),
      browseAbsent := if gone = [] then x.life.counters.browseAbsent
        else min 4294967295 (x.life.counters.browseAbsent + gone.length) }
    let after (records : List FrameRecord) (u : State) : State := u.setFeed f { u.feed f with
      frame := { x.frame with records := records }, life := { x.life with counters := counters } }
    exec (.insertionAnswer t .ok) s = .next (match kept with
      | [] => after [] staged
      | q :: rest =>
        match q.slot with
        | none => after kept staged
        | some slot =>
          if q.state = .closed ∧ q.rowsAnswered = q.rowsQueued then
            after ({ q with state := .sealing } :: rest) (staged.headerMade f slot q)
          else after kept staged)
      ∧ moved.feed f = { x with publisher := { x.publisher with
          published := x.publisher.published + 1, word := x.publisher.word.moved } }
      ∧ (∀ g : FeedId, g ≠ f → moved.feed g = s.feed g) ∧ moved.catalogue = s.catalogue
      ∧ moved.tags = s.tags.set t .free ∧ moved.notices = s.notices ∧ moved.commands = s.commands
      ∧ moved.engine = s.engine

/-- The batch answered without error (chapter 5.4): Wc increases by n, its n records leave the head of staging, no
batch is in flight, the producer word is brought up to date, and then the start test is made, which may start the next
batch; no feed, notice or command changes. The test is stated as BATCH_START, which is that test as a step of its own
by the model's choice (log 5). -/
def Obligations.BatchAnswered : Prop :=
  ∀ (s : State) (e : InsEntry) (t : Tag) (b : Batch), s.inFlight e t → s.engine = .normal →
    e.kind = .batch → e.source = .catalogue → s.catalogue.batch = some b →
    let moved := updateWord .catalogue { s.freed e t with catalogue := { s.catalogue with
      produced := s.catalogue.produced + BitVec.ofNat 32 b.size,
      staging := s.catalogue.staging.drop b.size, batch := none } }
    ∃ u : State, exec (.insertionAnswer t .ok) s = .next u ∧ exec .batchStart moved = .next u
      ∧ moved.catalogue = { s.catalogue with
          produced := s.catalogue.produced + BitVec.ofNat 32 b.size,
          staging := s.catalogue.staging.drop b.size, batch := none, word := s.catalogue.word.moved }
      ∧ u.catalogue = { moved.catalogue with batch := u.catalogue.batch }
      ∧ u.tags = s.tags.set t .free ∧ u.feeds = s.feeds ∧ u.notices = s.notices ∧ u.commands = s.commands
      ∧ u.engine = s.engine ∧ u.forwardQ = s.forwardQ ∧ u.tapQ = s.tapQ

/-- The notice answered without error (chapter 9.4): its entry leaves the queue and its tag is FREE, Pn increases by one,
the head notice leaves staging, the notice word is brought up to date, and then the write test is made, which may make the
next notice's entry. ATTENTION follows Pn; no feed, catalogue or command changes. Ages are the model's own numbers (log
11). -/
def Obligations.NoticeAnswered : Prop :=
  ∀ (s : State) (e : InsEntry) (t : Tag), s.inFlight e t → s.engine = .normal →
    e.kind = .notice → e.source = .notice →
    let moved := updateWord .notice { s.freed e t with notices := { s.notices with
      produced := s.notices.produced + 1, staging := s.notices.staging.tail } }
    exec (.insertionAnswer t .ok) s = .next moved.noticeTested
      ∧ moved = { s with
          tags := s.tags.set t .free, insQ := moved.insQ, nextAge := moved.nextAge,
          notices := { s.notices with
            produced := s.notices.produced + 1, staging := s.notices.staging.tail, word := s.notices.word.moved } }
      ∧ (moved.noticeTested.attention = true ↔ s.notices.produced + 1 ≠ s.notices.consumed)

/-- The coalescing of the publish word, the catalogue producer word and the notice producer word (chapters 4.4, 5.5,
8.1, 9.4). When the count increases: from NONE an entry carrying it is made, a QUEUED entry takes it, an ISSUED one is
left, and the state moves. When the entry that wrote `v` is answered: a new entry carrying the present count is made
where the state was ISSUED AND MOVED and the count is not `v`, else the state becomes NONE. The entry writes the 32 bytes
of the word's block with the word's four lanes enabled. Ages are the model's own numbers (log 11). -/
def Obligations.WordCoalesces : Prop :=
  (∀ (w : WordId) (s : State), s.engine = .normal →
    (w.state s = .none → (∀ e ∈ s.insQ, w.owns e = false) →
        updateWord w s = setWord w .queued { s with
          insQ := s.insQ ++ [w.entry s.nextAge s], nextAge := s.nextAge + 1 })
      ∧ (w.state s = .queued → updateWord w s = { s with
          insQ := s.insQ.map fun e => if w.owns e then { e with data := .word (w.value s) } else e })
      ∧ (w.state s = .issued ∨ w.state s = .issuedMoved → updateWord w s = setWord w .issuedMoved s)
      ∧ ∀ (e : InsEntry) (t : Tag) (v : Count), s.inFlight e t → e.word = some w → e.data = .word v →
          (∀ x ∈ s.insQ, w.owns x = true → x = e) →
          exec (.insertionAnswer t .ok) s = .next
            (if w.state s = .issuedMoved ∧ w.value s ≠ v then
              setWord w .queued { s.freed e t with
                insQ := (s.freed e t).insQ ++ [w.entry s.nextAge s], nextAge := s.nextAge + 1 }
            else setWord w .none (s.freed e t)))
    ∧ ∀ (s : State) (x : WordState) (f : FeedId) (e : InsEntry),
        setWord (.publish f) x s = s.setFeed f { s.feed f with publisher := { (s.feed f).publisher with word := x } }
          ∧ setWord .catalogue x s = { s with catalogue := { s.catalogue with word := x } }
          ∧ setWord .notice x s = { s with notices := { s.notices with word := x } }
          ∧ WordId.state (.publish f) s = (s.feed f).publisher.word ∧ WordId.state .catalogue s = s.catalogue.word
          ∧ WordId.state .notice s = s.notices.word ∧ WordId.value (.publish f) s = (s.feed f).publisher.published
          ∧ WordId.value .catalogue s = s.catalogue.produced ∧ WordId.value .notice s = s.notices.produced
          ∧ (WordId.owns (.publish f) e = true ↔ e.source = .feed f ∧ e.kind = .publishWord)
          ∧ (WordId.owns .catalogue e = true ↔ e.source = .catalogue ∧ e.kind = .catalogueWord)
          ∧ (WordId.owns .notice e = true ↔ e.source = .notice ∧ e.kind = .noticeWord)

/-- A row part of a LIVE item answered without error (chapters 2.7, 4.1, 4.4): it is ANSWERED, and nothing else changes
while another part of the item is not. With every part ANSWERED the item leaves the list, its buffer's use count falls by
one, its bytes stay, and its record counts one row answered. Where the head, CLOSED with browse, has then every row
answered, its header's entry is made, 64 bytes at the start of its slot as chapter 11.2 lays them out, and it is SEALING.
The head was not ready before. That the entry of the feed's next part is a step of its own is deduced (log 4). Ages and
the items' names are the model's own numbers (log 11). -/
def Obligations.RowAnswered : Prop :=
  (∀ (s : State) (e : InsEntry) (t : Tag) (f : FeedId) (ref : RowRef) (pre post : List RowItem) (i : RowItem)
    (before after : List RowPart) (p : RowPart),
    s.inFlight e t → s.engine = .normal → e.kind = .row → e.source = .feed f → e.row = some ref →
    (s.feed f).rows.items = pre ++ i :: post → i.ident = ref.item → i.parts = before ++ p :: after →
    p.index = ref.part → i.standing = .live →
    (∀ j ∈ pre ++ post, j.ident ≠ ref.item ∧ ∃ q ∈ j.parts, q.state ≠ .answered) →
    (∀ q ∈ before ++ after, q.index ≠ ref.part) → (∀ r ∈ (s.feed f).frame.records.head?, r.unready) →
    let x := s.feed f
    let rows : RowStore := RowStore.setBuffer { x.rows with items := pre ++ post } i.buffer
      { x.rows.buffer i.buffer with useCount := (x.rows.buffer i.buffer).useCount - 1 }
    let records := x.frame.records.map fun r =>
      if r.serial = i.serial then { r with rowsAnswered := r.rowsAnswered + 1 } else r
    let became (list : List FrameRecord) : Feed := { x with frame := { x.frame with records := list }, rows := rows }
    ((∃ q ∈ before ++ after, q.state ≠ .answered) →
        exec (.insertionAnswer t .ok) s = .next ((s.freed e t).setFeed f { x with rows := { x.rows with
          items := pre ++ { i with parts := before ++ { p with state := .answered } :: after } :: post } }))
      ∧ ((∀ q ∈ before ++ after, q.state = .answered) →
        ((∀ r ∈ records.head?, r.unready) →
            exec (.insertionAnswer t .ok) s = .next ((s.freed e t).setFeed f (became records)))
          ∧ ∀ r rest slot, records = r :: rest → r.state = .closed → r.slot = some slot → r.rowsAnswered = r.rowsQueued →
            exec (.insertionAnswer t .ok) s = .next
              (((s.freed e t).headerMade f slot r).setFeed f (became ({ r with state := .sealing } :: rest)))))
    ∧ ∀ (f : FeedId) (p : FeedDef) (r : FrameRecord), recordHolds (headerBytes f p r) 64 [
        (0, 1, f.val), (1, 1, p.tag.toNat), (2, 2, r.conditions.toNat), (4, 4, r.serial.toNat),
        (8, 1, r.timecode.frames.toNat), (9, 1, r.timecode.seconds.toNat), (10, 1, r.timecode.minutes.toNat),
        (11, 1, r.timecode.hours.toNat), (12, 2, r.width / p.decimation), (14, 2, r.height / p.decimation),
        (16, 2, (2 * r.width / p.decimation + 31) / 32 * 32), (18, 1, if p.legalClamp then 1 else 0), (19, 1, 0),
        (20, 2, r.linesMissing), (22, 2, 0), (24, 8, r.openTime.toNat), (32, 32, 0)]

/-- An answer on an ORPHANED tag frees it, is never retried and counts no row answered (chapters 4.2, 6.6, 7.4): a
row part's answer goes to the row store, where its item may end, an ERROR adding BROWSE WRITE FAILED to the further causes
of a fault word present; every other kind's answer, and one that names no item (deduced, log 15), changes nothing else. An
answer on a FREE tag changes nothing. A dropped part is no longer in its item (deduced, log 25). That a step
whose conditions fail changes nothing is the model's choice (log 1). The items' names are the model's own
numbers (log 11). -/
def Obligations.OrphanedAnswer : Prop :=
  ∀ (t : Tag) (status : AnswerStatus) (s : State),
    (s.tags[t] = .free → exec (.orphanedAnswer t status) s = .next s)
      ∧ ∀ i : EntryIdent, s.tags[t] = .orphaned i →
        (i.kind ≠ .row →
            exec (.orphanedAnswer t status) s = .next { s with tags := s.tags.set t .free })
          ∧ ∀ (f : FeedId) (ref : RowRef), i.kind = .row → i.source = .feed f → i.row = some ref →
            let x := s.feed f
            ((∀ j ∈ x.rows.items, j.ident ≠ ref.item) →
                exec (.orphanedAnswer t status) s = .next { s with tags := s.tags.set t .free })
              ∧ ((∃ j ∈ x.rows.items, j.ident = ref.item) → ∃ rows : RowStore, x.rows.answers ref rows ∧
                exec (.orphanedAnswer t status) s = .next { s.setFeed f { x with
                  rows := rows,
                  life := { x.life with
                    fault := if status = .error then x.life.fault.map fun w => { w with furtherBrowse := true }
                      else x.life.fault } } with
                  tags := s.tags.set t .free })

/-- P increases only when a header write of the feed has been answered without error, by one, and is set to 0 only by
DEFINE FEED, RESET ENGINE and power-on reset (chapters 4.3 and 4.4). -/
def Obligations.PublishedMoves : Prop :=
  ∀ (c : Instr) (s t : State) (f : FeedId), exec c s = .next t →
    (t.feed f).publisher.published = (s.feed f).publisher.published
      ∨ ((t.feed f).publisher.published = (s.feed f).publisher.published + 1 ∧ s.engine = .normal
          ∧ ∃ (u : Tag) (e : InsEntry), c = .insertionAnswer u .ok ∧ e ∈ s.insQ ∧ e.state = .issued u
              ∧ e.kind = .header ∧ e.source = .feed f)
      ∨ ((t.feed f).publisher.published = 0
          ∧ (c = .defineFeed ∨ c = .resetEngine ∨ ∃ v, c = .powerOnReset v))

/-! ### Parser and frames -/

/-- R3: a header is valid exactly when sync is 0xA55C, the sixteen 16-bit words add to 0 modulo 65536, kind is 1 to 5,
the feed tag is the feed's, and the payload length is a multiple of 32 and at most 1,048,576. The fields of a valid one are
read at their offsets of chapter 11.1. -/
def Obligations.HeaderValid : Prop :=
  ∀ (tag : Byte) (bytes : List Byte), bytes.length = 32 →
    (∀ h, readHeader tag bytes = some h → h = {
        kind := (match fieldAt bytes 2 1 with
          | 1 => .opening
          | 2 => .lines
          | 3 => .audio
          | 4 => .close
          | _ => .fill),
        sequence := BitVec.ofNat 16 (fieldAt bytes 4 2), a := fieldAt bytes 6 2, len := fieldAt bytes 8 4,
        timecode := {
          frames := bytes.getD 12 0, seconds := bytes.getD 13 0, minutes := bytes.getD 14 0, hours := bytes.getD 15 0 },
        b := fieldAt bytes 16 2, c := fieldAt bytes 18 2 })
    ∧ ((readHeader tag bytes).isSome = true ↔
      fieldAt bytes 0 2 = 0xA55C
        ∧ (((List.range 16).map fun i => fieldAt bytes (2 * i) 2).sum) % 65536 = 0
        ∧ 1 ≤ fieldAt bytes 2 1 ∧ fieldAt bytes 2 1 ≤ 5
        ∧ bytes[3]? = some tag
        ∧ fieldAt bytes 8 4 % 32 = 0 ∧ fieldAt bytes 8 4 ≤ 1048576)

/-- The parser takes the head tap entry, works on the context of its feed alone, and removes it, with the feed's other
entries exactly where its context becomes IDLE; with no entry it waits. An entry is tested for a break and then parsed
position by position, each 32 bytes after the one before. It writes no count the arbiter, the command unit or the
through-path holds; a record that becomes DONE may start a batch where none is in flight (chapters 1.3, 5.4 and 7.6).
That a step whose conditions fail changes nothing is the model's choice (log 1). -/
def Obligations.ParserServesHead : Prop :=
  (∀ s : State, s.tapQ = [] → exec .parseTapEntry s = .next s)
    ∧ (∀ (s : State) (e : TapEntry) (rest : List TapEntry), s.tapQ = e :: rest →
        ∃ t : State, exec .parseTapEntry s = .next t
          ∧ ((s.feed e.feed).parse.state = .idle ∨ (t.feed e.feed).parse.state ≠ .idle → t.tapQ = rest)
          ∧ ((s.feed e.feed).parse.state ≠ .idle → (t.feed e.feed).parse.state = .idle →
              t.tapQ = rest.filter fun y => decide (y.feed ≠ e.feed))
          ∧ (∀ g : FeedId, g ≠ e.feed → t.feed g = s.feed g)
          ∧ (t.feed e.feed).ingest = (s.feed e.feed).ingest ∧ (t.feed e.feed).browse = (s.feed e.feed).browse
          ∧ (t.feed e.feed).life.defn = (s.feed e.feed).life.defn
          ∧ (t.feed e.feed).life.presence = (s.feed e.feed).life.presence
          ∧ (t.feed e.feed).publisher.published = (s.feed e.feed).publisher.published
          ∧ (t.feed e.feed).publisher.released = (s.feed e.feed).publisher.released
          ∧ t.forwardQ = s.forwardQ ∧ t.commands = s.commands ∧ t.credit = s.credit ∧ t.engine = s.engine
          ∧ t.timeBase = s.timeBase ∧ t.memPort = s.memPort ∧ t.catalogue.produced = s.catalogue.produced
          ∧ t.catalogue.consumed = s.catalogue.consumed
          ∧ (t.catalogue.batch = s.catalogue.batch ∨ s.catalogue.batch = none)
          ∧ t.notices.produced = s.notices.produced ∧ t.notices.consumed = s.notices.consumed)
    ∧ ∀ (s : State) (e : TapEntry) (rest : List TapEntry) (n : Nat), s.tapQ = e :: rest → e.data.length = 32 * n →
        let x := s.feed e.feed
        let parts : Prop := (x.parse.state = .atHeader ∨ x.parse.state = .inPayload)
          ∧ (e.addr ≠ x.parse.cursor ∨ e.afterMiss = true)
        let run (u : State) : State := (List.range n).foldl (fun v k =>
          parsePosition e.feed e.stamp (e.addr + BitVec.ofNat 40 (32 * k)) ((e.data.drop (32 * k)).take 32) v)
          { u with tapQ := rest }
        (parts → exec .parseTapEntry s = .next (run (s.setFeed e.feed x.broken)))
          ∧ (¬ parts → exec .parseTapEntry s = .next (run s))

/-- A position that is no valid header. In HUNT it adds 32 to the hunt budget; where the budget then exceeds the ring size
the feed faults with NO LOCK. In AT HEADER it is a header reject: counted, and the context hunts with budget 0. Either way
the cursor moves past it, around the ring, and its bytes count toward an open frame's length (chapters 1.4, 1.5, 2.6). The
entry is one position and no break. -/
def Obligations.HuntScans : Prop :=
  ∀ (s : State) (e : TapEntry) (rest : List TapEntry), s.tapQ = e :: rest → e.data.length = 32 →
    readHeader (s.feed e.feed).params.tag e.data = none →
    let f := e.feed
    let x := s.feed f
    let told := stageEvent (.feedFault f .noLock x.frame.records.length)
      { s with insQ := s.insQ.filter fun y => decide (y.source ≠ .feed f) }
    (x.parse.state = .hunt → x.parse.budget + 32 ≤ x.params.ingestSize →
        exec .parseTapEntry s = .next { s.setFeed f (Feed.lengthened 32 { x with parse := { x.parse with
          budget := x.parse.budget + 32, cursor := cursorPast x.params e.addr } }) with tapQ := rest })
      ∧ (x.parse.state = .hunt → x.params.ingestSize < x.parse.budget + 32 →
        ∃ t : State, exec .parseTapEntry s = .next t
          ∧ (t.feed f).life.fault = some { first := .noLock, furtherBrowse := false }
          ∧ (x.life.state = .active ∨ x.life.state = .suspended → (t.feed f).life.state = .faulted)
          ∧ (t.feed f).parse.state = .idle ∧ (t.feed f).frame.records = []
          ∧ t.tapQ = rest.filter (fun y => decide (y.feed ≠ f))
          ∧ t.notices = told.notices ∧ t.insQ = told.insQ ∧ t.nextAge = told.nextAge)
      ∧ (x.parse.state = .atHeader → e.addr = x.parse.cursor → e.afterMiss = false →
        exec .parseTapEntry s = .next { s.setFeed f (Feed.lengthened 32 { x with
          parse := { x.parse with state := .hunt, budget := 0, cursor := cursorPast x.params e.addr },
          life := { x.life with counters := { x.life.counters with
            headerRejects := min 4294967295 (x.life.counters.headerRejects + 1) } } }) with tapQ := rest })

/-- A break (chapter 1.3): an entry whose address is not the cursor, or that is marked after-miss, begun in AT HEADER or
IN PAYLOAD, counts a break, sets BREAK in the open record, ends the packet in progress and is scanned in HUNT from its
first byte, as on the feed after the break; the open frame stays open and the expected sequence is kept. Of an entry of
one position with no header the outcome is given field by field. -/
def Obligations.BreakHunts : Prop :=
  ∀ (s : State) (e : TapEntry) (rest : List TapEntry), s.tapQ = e :: rest →
    ((s.feed e.feed).parse.state = .atHeader ∨ (s.feed e.feed).parse.state = .inPayload) →
    (e.addr ≠ (s.feed e.feed).parse.cursor ∨ e.afterMiss = true) →
    let f := e.feed
    let x := s.feed f
    exec .parseTapEntry s = exec .parseTapEntry (s.setFeed f x.broken)
      ∧ (e.data.length = 32 → readHeader x.params.tag e.data = none → 32 ≤ x.params.ingestSize →
        ∃ t : State, exec .parseTapEntry s = .next t ∧ t.tapQ = rest
          ∧ (t.feed f).parse.state = .hunt ∧ (t.feed f).parse.residue = 0 ∧ (t.feed f).parse.packet = none
          ∧ (t.feed f).parse.budget = 32 ∧ (t.feed f).parse.expectedSeq = x.parse.expectedSeq
          ∧ (t.feed f).life = { x.life with counters := { x.life.counters with
              breaks := min 4294967295 (x.life.counters.breaks + 1) } }
          ∧ (t.feed f).frame.openFrame = x.frame.openFrame
          ∧ (t.feed f).frame.records.length = x.frame.records.length
          ∧ (x.frame.openFrame = .tracked → ∀ r ∈ (t.feed f).frame.records, r.state = .opened →
              hasCondition .break r.conditions = true)
          ∧ (t.feed f).publisher = x.publisher ∧ (t.feed f).rows = x.rows
          ∧ (∀ g : FeedId, g ≠ f → t.feed g = s.feed g) ∧ t.insQ = s.insQ ∧ t.notices = s.notices)

/-- A valid OPEN header, at a lock or at the cursor, of any sequence number and payload length (chapters 1.4, 1.5, 2.2,
2.3). With no frame open it takes the next serial, counts, zeroes the peak set and makes the timecode check. With fewer
than four records it appends one, OPEN, with the browse decision's first reason that applies; with browse it holds slot A
mod slot count, A increases and the reducer starts. With four it is untracked, and counted. An OPEN that finds a frame
open closes it with NO CLOSE first and then acts as on the state after the close; under retire pending the close makes the
context IDLE instead and nothing opens. That an IDLE context keeps the cursor past the header and the expected sequence
moved by it is deduced (log 14). -/
def Obligations.OpenHeader : Prop :=
  ∀ (s : State) (e : TapEntry) (rest : List TapEntry) (h : EssenceHeader), s.tapQ = e :: rest →
    e.data.length = 32 → (s.feed e.feed).meetsHeader e →
    readHeader (s.feed e.feed).params.tag e.data = some h → h.kind = .opening →
    let f := e.feed
    let x := s.feed f
    let d := x.params.decimation
    let gap := x.gapAt h
    let check := checkTimecode x.params.rateCode x.frame.expectedTimecode h.timecode
    let reason : BrowseReason :=
      if x.life.state = .suspended then .suspended
      else if ¬ (64 ≤ h.b ∧ h.b ≤ 4096 ∧ h.b % (2 * d) = 0 ∧ 16 ≤ h.c ∧ h.c ≤ 4096 ∧ h.c % d = 0) then .geometry
      else if x.params.slotSize < 64 + (2 * h.b / d + 31) / 32 * 32 * (h.c / d) then .slotSize
      else if (x.publisher.assigned - x.publisher.released).toNat = x.params.slotCount then .ringFull
      else .none
    let y := x.gapNoted gap
    let opened : Feed := Feed.pastHeader e.addr h .skip { y with
      life := { y.life with counters := { y.life.counters with
        framesOpened := min 4294967295 (y.life.counters.framesOpened + 1) } },
      frame := { y.frame with
        nextSerial := x.frame.nextSerial + 1, peaks := Vector.replicate 8 0, expectedTimecode := check.expected } }
    let record : FrameRecord := {
      serial := x.frame.nextSerial, timecode := check.stored, openTime := e.stamp, ingestAddr := e.addr,
      frameLength := 32, width := h.b, height := h.c,
      slot := if reason = .none then some (x.publisher.assigned.toNat % x.params.slotCount) else none,
      reason := reason, rowsQueued := 0, rowsAnswered := 0, linesReceived := 0, lastLine := none, linesMissing := 0,
      conditions := (match check.flag with
        | some .tcJump => 0x0080
        | some .tcSubstituted => 0x0100
        | some .tcInvalid => 0x0200
        | _ => 0),
      sequenceGaps := 0, peaks := Vector.replicate 8 0, untrackedBefore := x.frame.untrackedBefore, state := .opened }
    (x.frame.openFrame = .none → x.frame.retirePending = false → x.frame.records.length < 4 →
        exec .parseTapEntry s = .next { s.setFeed f { opened with
          frame := { opened.frame with
            openFrame := .tracked, untrackedBefore := 0, records := x.frame.records ++ [record] },
          publisher := if reason = .none then { x.publisher with assigned := x.publisher.assigned + 1 }
            else x.publisher,
          reducer := if reason = .none then {
              mode := .reducing, band := 0, count := 0, line := none, reference := none,
              lineLuma := List.replicate (h.b / d) 0, lineChroma := List.replicate (h.b / d) 0,
              bandLuma := List.replicate (h.b / d) 0, bandChroma := List.replicate (h.b / d) 0 }
            else x.reducer } with tapQ := rest })
      ∧ (x.frame.openFrame = .none → x.frame.retirePending = false → 4 ≤ x.frame.records.length →
        exec .parseTapEntry s = .next { s.setFeed f { opened with
          frame := { opened.frame with
            openFrame := .untracked, untrackedBefore := min 255 (x.frame.untrackedBefore + 1) },
          life := { opened.life with counters := { opened.life.counters with
            untrackedFrames := min 4294967295 (x.life.counters.untrackedFrames + 1) } } } with tapQ := rest })
      ∧ (∀ c : State, x.frame.retirePending = false →
        (x.frame.openFrame = .untracked ∧ c = (s.setFeed f y).closedList f y.frame.records
          ∨ ∃ r, y.framing r ∧ c = State.closedNewest f 0x0002 r (s.setFeed f y)) →
        exec .parseTapEntry s = exec .parseTapEntry (c.setFeed f { c.feed f with
          parse := { (c.feed f).parse with expectedSeq := h.sequence } }))
      ∧ ∀ c : State, x.frame.retirePending = true →
        (x.frame.openFrame = .untracked ∧ c = (s.setFeed f y).closedList f y.frame.records
          ∨ ∃ r, y.framing r ∧ c = State.closedNewest f 0x0002 r (s.setFeed f y)) →
        ∃ t : State, exec .parseTapEntry s = .next t
          ∧ State.stops f { c.setFeed f ((c.feed f).pastHeader e.addr h .skip) with tapQ := rest } t

/-- Timecode (chapter 2.3). The six rates, and validity, with the test of drop-frame; the five rows of the check; and a
valid timecode advanced is valid and is the next one in the count of frames of the day, two frame numbers further where
drop-frame counting skips them. -/
def Obligations.TimecodesChecked : Prop :=
  [0, 1, 2, 3, 4, 5].map rateOf = [24, 25, 30, 30, 50, 60]
    ∧ (∀ (code : Nat) (t : Timecode), code ≤ 5 → (timecodeValid code t = true ↔
        t.hours.toNat ≤ 23 ∧ t.minutes.toNat ≤ 59 ∧ t.seconds.toNat ≤ 59 ∧ t.frames.toNat < rateOf code
          ∧ ¬ (code = 3 ∧ t.seconds.toNat = 0 ∧ t.frames.toNat ≤ 1 ∧ t.minutes.toNat % 10 ≠ 0)))
    ∧
  (∀ (code : Nat) (e incoming : Timecode),
      (timecodeValid code incoming = true →
        checkTimecode code (some incoming) incoming = ⟨incoming, none, some (advanceTimecode code incoming)⟩
          ∧ (e ≠ incoming → checkTimecode code (some e) incoming
              = ⟨incoming, some .tcJump, some (advanceTimecode code incoming)⟩)
          ∧ checkTimecode code none incoming = ⟨incoming, none, some (advanceTimecode code incoming)⟩)
        ∧ (timecodeValid code incoming = false →
          checkTimecode code (some e) incoming = ⟨e, some .tcSubstituted, some (advanceTimecode code e)⟩
            ∧ checkTimecode code none incoming = ⟨incoming, some .tcInvalid, none⟩))
    ∧ ∀ (code : Nat) (t : Timecode), code ≤ 5 → timecodeValid code t = true →
        let rate := rateOf code
        let place (x : Timecode) := ((x.hours.toNat * 60 + x.minutes.toNat) * 60 + x.seconds.toNat) * rate + x.frames.toNat
        let after := (place t + 1) % (86400 * rate)
        timecodeValid code (advanceTimecode code t) = true
          ∧ place (advanceTimecode code t) =
              if code = 3 ∧ after % 1800 = 0 ∧ after / 1800 % 10 ≠ 0 then after + 2 else after

/-- A LINES, AUDIO or FILL header at a lock or at the cursor, and the payload walk (chapters 1.4 to 1.6, 2.2, 2.4, 2.5). In
the tracked open frame LINES and AUDIO set MALFORMED, DISORDER or AUDIO MALFORMED and are skipped, or are delivered, with
RANGE where a line lies at or beyond H; in an untracked frame they are skipped; with no frame open they, and CLOSE, are
counted stray. One position of a payload moves the cursor and takes 32 from the residue, the packet ending at 0; a picture
word goes to the reducer while its line is below H and the frame has browse, a line's last word receives the line; a
metered sample raises its own channel's peak to its 24-bit magnitude. That the packet keeps its sample count is deduced
(log 24). -/
def Obligations.PayloadHeaders : Prop :=
  (∀ (s : State) (e : TapEntry) (rest : List TapEntry) (h : EssenceHeader), s.tapQ = e :: rest →
      e.data.length = 32 → (s.feed e.feed).meetsHeader e →
      readHeader (s.feed e.feed).params.tag e.data = some h →
      let f := e.feed
      let x := s.feed f
      let y := x.gapNoted (x.gapAt h)
      let becomes (z : Feed) : Prop := exec .parseTapEntry s = .next { s.setFeed f z with tapQ := rest }
      (∀ r, h.kind = .lines ∨ h.kind = .audio → y.framing r →
        let outcome : Disposition × BitVec 16 :=
          if h.kind = .lines then
            if ¬ (1 ≤ h.b ∧ h.b ≤ 16 ∧ 1 ≤ r.width ∧ h.len = (4 * r.width * h.b + 31) / 32 * 32) then (.skip, 0x0040)
            else if (r.lastLine.any fun last => decide (h.a ≤ last)) = true then (.skip, 0x0010)
            else (.lines h.a h.b 0, if r.height ≤ h.a + h.b - 1 then 0x0020 else 0)
          else if 1 ≤ h.a ∧ h.a ≤ 8 ∧ 1 ≤ h.b ∧ h.b ≤ 8192 ∧ h.len = (4 * h.a * h.b + 31) / 32 * 32 then
            (.audio h.a (h.a * h.b) 0, 0)
          else (.skip, 0x0400)
        becomes (Feed.pastHeader e.addr h outcome.1 { y with frame := { y.frame with
          records := y.frame.records.dropLast ++ [{ r with
            frameLength := min 4294967295 (r.frameLength + 32), conditions := r.conditions ||| outcome.2 }] } }))
        ∧ (h.kind = .lines ∨ h.kind = .audio → x.frame.openFrame = .untracked →
            becomes (y.pastHeader e.addr h .skip))
        ∧ (h.kind = .lines ∨ h.kind = .audio ∨ h.kind = .close → x.frame.openFrame = .none →
            becomes (Feed.pastHeader e.addr h .stray { y with life := { y.life with counters := { y.life.counters with
              strayPackets := min 4294967295 (y.life.counters.strayPackets + 1) } } }))
        ∧ (h.kind = .fill → becomes (Feed.pastHeader e.addr h .skip (y.lengthened 32))))
    ∧ (∀ (s : State) (e : TapEntry) (rest : List TapEntry), s.tapQ = e :: rest → e.data.length = 32 →
      (s.feed e.feed).parse.state = .inPayload → e.addr = (s.feed e.feed).parse.cursor → e.afterMiss = false →
      let f := e.feed
      let x := s.feed f
      (x.parse.packet = none ∨ (∃ k, x.parse.packet = some ⟨k, .skip⟩ ∨ x.parse.packet = some ⟨k, .stray⟩) →
          exec .parseTapEntry s = .next { s.setFeed f (x.pastPayload e.addr) with tapQ := rest })
        ∧ (∀ k line remaining pos, x.parse.packet = some ⟨k, .lines line remaining pos⟩ →
          exec .parseTapEntry s = .next (((List.range 16).foldl
            (fun u i => pictureWord f u (fieldAt e.data (2 * i) 2)) { s with tapQ := rest }).modFeed f
              (Feed.pastPayload e.addr)))
        ∧ ∀ k channels total pos, x.parse.packet = some ⟨k, .audio channels total pos⟩ →
          let sample (peaks : Vector Nat 8) (i : Nat) : Vector Nat 8 :=
            if pos + i < total then meter peaks ((pos + i) % channels) (signed24 (fieldAt e.data (4 * i) 4)) else peaks
          exec .parseTapEntry s = .next { s.setFeed f (Feed.pastPayload e.addr { x with
            parse := { x.parse with packet := some ⟨k, .audio channels total (max pos (min total (pos + 8)))⟩ },
            frame := { x.frame with peaks := (List.range 8).foldl sample x.frame.peaks } }) with tapQ := rest })
    ∧ (∀ (s : State) (f : FeedId) (k : PacketKind) (line remaining pos word : Nat) (r : FrameRecord),
      (s.feed f).parse.packet = some ⟨k, .lines line remaining pos⟩ → (s.feed f).openRecord = some r →
      let x := s.feed f
      let moved (d : Disposition) : Feed := { x with
        parse := { x.parse with packet := some ⟨k, d⟩ },
        reducer := if line < r.height ∧ r.reason = .none then
            x.reducer.addWord x.params.decimation r.width line pos (word % 1024) else x.reducer }
      let z := moved (.lines (line + 1) (remaining - 1) 0)
      let received := s.setFeed f { z with frame := { z.frame with records := z.frame.records.map fun q =>
        if q.state = .opened then { q with linesReceived := q.linesReceived + 1, lastLine := some line } else q } }
      (remaining = 0 → pictureWord f s word = s)
        ∧ (remaining ≠ 0 → pos + 1 ≠ 2 * r.width →
            pictureWord f s word = s.setFeed f (moved (.lines line remaining (pos + 1))))
        ∧ (remaining ≠ 0 → pos + 1 = 2 * r.width → r.height ≤ line → pictureWord f s word = s.setFeed f z)
        ∧ (remaining ≠ 0 → pos + 1 = 2 * r.width → line < r.height → r.reason ≠ .none →
            pictureWord f s word = received)
        ∧ (remaining ≠ 0 → pos + 1 = 2 * r.width → line < r.height → r.reason = .none →
            pictureWord f s word = reduceLine f line received))
    ∧ ∀ (peaks : Vector Nat 8) (channel word k : Nat) (hk : k < 8),
        let v := word % 16777216
        let magnitude := if v < 8388608 then v else min (16777216 - v) 8388607
        (meter peaks channel (signed24 word))[k] = if k = channel then max peaks[k] magnitude else peaks[k]

/-- A CLOSE header at a lock or at the cursor, of any payload length (chapters 1.5, 2.6, 2.7, 3.4, 4.4). It counts its header
and payload and closes the open frame. A tracked frame's lines missing and peaks are fixed, and the bands that remain of
one with browse complete; alone in its list its record is then DONE, with its index record staged, where it has no browse,
SEALING with every row answered, else CLOSED; behind another it is CLOSED. Of an untracked frame nothing is recorded. Where
retire pending is set the context is then IDLE and its tap entries are purged. That an IDLE context keeps the cursor
past the header and the expected sequence moved by it is deduced (log 14). -/
def Obligations.CloseHeader : Prop :=
  ∀ (s : State) (e : TapEntry) (rest : List TapEntry) (h : EssenceHeader), s.tapQ = e :: rest →
    e.data.length = 32 → (s.feed e.feed).meetsHeader e →
    readHeader (s.feed e.feed).params.tag e.data = some h → h.kind = .close →
    let f := e.feed
    let x := s.feed f
    let y := (x.gapNoted (x.gapAt h)).lengthened (32 + h.len)
    (∀ c : State,
      (x.frame.openFrame = .untracked ∧ c = (s.setFeed f y).closedList f y.frame.records
        ∨ ∃ r, y.framing r ∧ c = State.closedNewest f 0 r (s.setFeed f y)) →
      let past : State := { c.setFeed f ((c.feed f).pastHeader e.addr h .skip) with tapQ := rest }
      (x.frame.retirePending = false → exec .parseTapEntry s = .next past)
        ∧ (x.frame.retirePending = true → ∃ t : State, exec .parseTapEntry s = .next t ∧ State.stops f past t))
      ∧ ∀ r, x.frame.records = [r] → r.state = .opened → r.slot = none → x.frame.openFrame = .tracked →
        h.sequence = x.parse.expectedSeq → x.frame.retirePending = false →
        let missing := r.height - r.linesReceived
        let closed : FrameRecord := { r with
          state := .closed, frameLength := min 4294967295 (r.frameLength + (32 + h.len)), linesMissing := missing,
          peaks := x.frame.peaks,
          conditions := if missing = 0 then r.conditions else r.conditions ||| 0x0800#16 }
        ∃ t : State, exec .parseTapEntry s = .next t ∧ t.tapQ = rest
          ∧ (t.feed f).frame = { x.frame with records := [], openFrame := .none }
          ∧ (t.feed f).life = { x.life with counters := { x.life.counters with
              browseAbsent := min 4294967295 (x.life.counters.browseAbsent + 1) } }
          ∧ t.catalogue = (stageIndex (indexRecord f x.params closed) s).catalogue
          ∧ t.insQ = (stageIndex (indexRecord f x.params closed) s).insQ
          ∧ (t.feed f).parse.expectedSeq = h.sequence + 1
          ∧ (t.feed f).publisher = x.publisher ∧ (t.feed f).rows = x.rows ∧ (t.feed f).reducer = x.reducer
          ∧ (∀ g : FeedId, g ≠ f → t.feed g = s.feed g) ∧ t.notices = s.notices

/-- LOSS_TIMEOUT_EXPIRY (chapters 1.6, 2.6, 6.4): for a PRESENT running feed whose timeout is on, when the time base less
the last arrival time has reached it, presence becomes ABSENT, an open frame closes with LOST set, its delivering payload
turned to SKIP and its partly parsed line dropped, and FEED LOST is staged or counted lost, naming the serial of the frame
closed, tracked or untracked, the one given last; before that nothing happens. That chapter 2.2 does not forbid it for an
untracked frame is deduced (log 21). Under retire pending the context is then IDLE. The difference of times is plain
(log 10). That a step whose conditions fail changes nothing is the model's choice (log 1). -/
def Obligations.LossTimeout : Prop :=
  ∀ (f : FeedId) (s : State),
    let x := s.feed f
    let expired := x.life.presence = .present ∧ x.parse.state ≠ .idle ∧ x.params.lossTimeout ≠ 0
      ∧ x.params.lossTimeout * 1000 ≤ s.timeBase.toNat - x.life.lastArrival.toNat
    let absent : Feed := { x with life := { x.life with presence := .absent } }
    let turned : Feed := { absent with
      parse := { x.parse with packet := x.parse.packet.map fun p => match p.disposition with
        | .lines _ _ _ | .audio _ _ _ => { p with disposition := .skip }
        | .skip | .stray => p },
      reducer := (match x.parse.packet with
        | some { kind := _, disposition := .lines _ _ word } => if 0 < word then x.reducer.dropLine else x.reducer
        | _ => x.reducer) }
    let told (named : Option Count) (u : State) : State := stageEvent (.feedLost f x.life.lastArrival named) u
    let after (c : State) (named : Option Count) : Prop :=
      (x.frame.retirePending = false → exec (.lossTimeoutExpiry f) s = .next (told named c))
        ∧ (x.frame.retirePending = true →
            ∃ t : State, State.stops f c t ∧ exec (.lossTimeoutExpiry f) s = .next (told named t))
    (¬ expired → exec (.lossTimeoutExpiry f) s = .next s)
      ∧ (expired → x.frame.openFrame = .none →
          exec (.lossTimeoutExpiry f) s = .next (told none (s.setFeed f absent)))
      ∧ (expired → x.frame.openFrame ≠ .none →
          ∃ t : State, exec (.lossTimeoutExpiry f) s = .next t
            ∧ (t.feed f).life.presence = .absent ∧ (t.feed f).frame.openFrame = .none
            ∧ (x.frame.openFrame = .tracked → ∀ r ∈ (t.feed f).frame.records, r.state ≠ .opened)
            ∧ (x.frame.retirePending = true → (t.feed f).parse.state = .idle)
            ∧ (x.frame.retirePending = false → (t.feed f).parse.state = x.parse.state)
            ∧ ∀ g : FeedId, g ≠ f → t.feed g = s.feed g)
      ∧ (expired → x.frame.openFrame = .untracked →
          after ((s.setFeed f turned).closedList f x.frame.records) (some (x.frame.nextSerial - 1)))
      ∧ (∀ r, expired → x.framing r →
          after (State.closedNewest f 0x0004 r (s.setFeed f turned)) (some (x.frame.nextSerial - 1)))
      ∧ (∀ r c, expired → x.framing r → r.slot = none → x.frame.records ≠ [r] →
          c = State.closedNewest f 0x0004 r (s.setFeed f turned) →
          ∃ q ∈ (c.feed f).frame.records, q.serial = r.serial ∧ q.state = .closed ∧ q.frameLength = r.frameLength
            ∧ hasCondition .lost q.conditions = true)

/-! ### Browse rows -/

/-- R57 to R59: the value floor((S + 2·D·n) / (4·D·n)) of a band sum S of at most 1023·D·n is at most 256, reaches 256
exactly when S is at least 1022·D·n, and is then saturated to 255; with the legal clamp on luma lies in 16 to 235 and
chroma in 16 to 240, a value already inside standing as it is, and with it off the saturated value stands. -/
def Obligations.BandValues : Prop :=
  ∀ (d n sum : Nat), (d = 2 ∨ d = 4 ∨ d = 8) → 1 ≤ n → n ≤ d → sum ≤ 1023 * d * n →
    let value := (sum + 2 * d * n) / (4 * d * n)
    let saturated := bandValue d n sum
    value ≤ 256 ∧ (value = 256 ↔ 1022 * d * n ≤ sum)
      ∧ (value = 256 → saturated = 255) ∧ (value ≤ 255 → saturated = value)
      ∧ ∀ top, (top = 235 ∨ top = 240) →
          legalValue false 16 top saturated = saturated
            ∧ (saturated < 16 → legalValue true 16 top saturated = 16)
            ∧ (top < saturated → legalValue true 16 top saturated = top)
            ∧ (16 ≤ saturated → saturated ≤ top → legalValue true 16 top saturated = saturated)

/-- The rows of a usable geometry (chapters 3.4 and 4.1): a computed row is pitch bytes long with its luma values, its
chroma values and zero pad in that order; a row handed at a slot offset is written in one part, or in two where it
crosses a 4 KiB boundary, which lie side by side, cover it, keep to one block each and are multiples of 32 bytes. -/
def Obligations.RowLayout : Prop :=
  (∀ (p : FeedDef) (w n : Nat) (luma chroma : List Nat),
      (p.decimation = 2 ∨ p.decimation = 4 ∨ p.decimation = 8) → w % (2 * p.decimation) = 0 →
      luma.length = w / p.decimation → chroma.length = w / p.decimation →
      let row := computedRow p w n luma chroma
      row.length = rowPitch p.decimation w
        ∧ (∀ j (hj : j < luma.length), row[j]? = some (BitVec.ofNat 8
            (legalValue p.legalClamp 16 235 (bandValue p.decimation n luma[j]))))
        ∧ (∀ j (hj : j < chroma.length), row[luma.length + j]? = some (BitVec.ofNat 8
            (legalValue p.legalClamp 16 240 (bandValue p.decimation n chroma[j]))))
        ∧ ∀ j, 2 * w / p.decimation ≤ j → j < rowPitch p.decimation w → row[j]? = some 0)
    ∧ ∀ offset pitch : Nat, offset % 32 = 0 → pitch % 32 = 0 → 32 ≤ pitch → pitch ≤ 4096 →
        let parts := rowParts offset pitch
        (parts = [{ index := 0, offset := 0, length := pitch, state := .waiting }]
            ∨ ∃ a b, parts = [{ index := 0, offset := 0, length := a, state := .waiting },
                { index := 1, offset := a, length := b, state := .waiting }] ∧ a + b = pitch
                ∧ (offset + a) % 4096 = 0)
          ∧ ∀ q ∈ parts, 32 ≤ q.length ∧ q.length % 32 = 0
              ∧ (offset + q.offset) / 4096 = (offset + q.offset + q.length - 1) / 4096

/-- The completion of the current band of the OPEN record with browse (chapters 3.2 to 3.4, 4.1, 4.2). A band after band 0
with no line repeats the reference's row, one use more of that buffer. Any other band takes a free buffer, of two free ones
the one the reference does not name or buffer 0, which then holds the row and is the reference; with both in use it
abandons the browse: reason ABANDONED, no slot, A one less, its row writes dealt with, the reducer IDLE. Unless abandoned
the row is handed as one item, rows queued increases, and the reducer is at the next band, or IDLE after the last. That an
IDLE reducer keeps its band and line count is deduced (log 20). Then the reducer's own steps: a word added, a line dropped,
a line-complete event. Deduced too: that a dropped part leaves its item (log 25), and that the parts handed are queued in
steps of their own (log 4). The items' names are the model's own numbers (log 11). -/
def Obligations.BandCompletes : Prop :=
  (∀ (f : FeedId) (r : FrameRecord) (slot : Nat) (s : State), (s.feed f).openRecord = some r → r.slot = some slot →
    let x := s.feed f
    let d := x.params.decimation
    let pitch := (2 * r.width / d + 31) / 32 * 32
    let held := x.reducer.count = 0 ∧ x.reducer.band ≠ 0
    let busy := x.rows.buffer0.useCount ≠ 0 ∧ x.rows.buffer1.useCount ≠ 0
    let free : BufferId :=
      if x.rows.buffer0.useCount ≠ 0 then .one
      else if x.rows.buffer1.useCount ≠ 0 then .zero
      else match x.reducer.reference with
        | none => .zero
        | some .zero => .one
        | some .one => .zero
    let row : List Byte := if x.reducer.count = 0 then
        List.replicate (r.width / d) 16 ++ List.replicate (r.width / d) 128 ++ List.replicate (pitch - 2 * (r.width / d)) 0
      else computedRow x.params r.width x.reducer.count x.reducer.bandLuma x.reducer.bandChroma
    let handed (b : BufferId) (buffer : RowBuffer) (reference : Option BufferId) : State := { s.setFeed f { x with
        rows := { x.rows.setBuffer b buffer with items := x.rows.items ++ [{
          ident := s.nextRowId, serial := r.serial, band := x.reducer.band, buffer := b,
          addr := x.params.browseBase + BitVec.ofNat 40 (slot * x.params.slotSize + 64 + x.reducer.band * pitch),
          length := pitch, parts := rowParts (64 + x.reducer.band * pitch) pitch, standing := .live }] },
        frame := { x.frame with records := x.frame.records.map fun q =>
          if q.state = .opened then { q with rowsQueued := q.rowsQueued + 1 } else q },
        reducer := if x.reducer.band + 1 = r.height / d then
            { x.reducer with
              mode := .idle, line := none, lineLuma := [], lineChroma := [], bandLuma := [], bandChroma := [],
              reference := none }
          else { x.reducer with
            band := x.reducer.band + 1, count := 0, bandLuma := x.reducer.bandLuma.map fun _ => 0,
            bandChroma := x.reducer.bandChroma.map fun _ => 0, reference := reference } } with
      nextRowId := s.nextRowId + 1 }
    (∀ b, held → x.reducer.reference = some b → completeBand f s = handed b
        { x.rows.buffer b with useCount := (x.rows.buffer b).useCount + 1 } (some b))
      ∧ (¬ held → ¬ busy → ∃ cells : List Host.Cell, completeBand f s = handed free { useCount := 1, cells := cells } (some free)
          ∧ ∀ k, k < 4096 → readCell cells k = row.getD k (readCell (x.rows.buffer free).cells k))
      ∧ (¬ held → busy → ∃ (u : State) (rows : RowStore), completeBand f s = u
          ∧ x.rows.deals (fun i => decide (i.serial = r.serial)) none rows
          ∧ u.feed f = { x with
              rows := rows, publisher := { x.publisher with assigned := x.publisher.assigned - 1 },
              frame := { x.frame with records := x.frame.records.map fun q =>
                if q.state = .opened then { q with reason := .abandoned, slot := none } else q },
              reducer := { x.reducer with
                mode := .idle, line := none, lineLuma := [], lineChroma := [], bandLuma := [], bandChroma := [],
                reference := none } }
          ∧ u = { s with feeds := u.feeds, insQ := u.insQ, tags := u.tags }
          ∧ (∀ g : FeedId, g ≠ f → u.feed g = s.feed g)
          ∧ let mine (e : InsEntry) : Prop := e.source = .feed f ∧ e.kind = .row
              ∧ ∃ i ∈ x.rows.items, i.serial = r.serial ∧ e.row.map RowRef.item = some i.ident
            (∀ e, e ∈ u.insQ ↔ e ∈ s.insQ ∧ ¬ mine e) ∧ u.insQ.Sublist s.insQ
            ∧ (∀ e ∈ s.insQ, mine e → ∀ v : Tag, e.state = .issued v →
                (∀ z ∈ s.insQ, z.state = .issued v → z = e) → u.tags[v] = .orphaned ⟨e.source, e.kind, e.row⟩)
            ∧ ∀ v : Tag, (∀ e ∈ s.insQ, mine e → e.state ≠ .issued v) → u.tags[v] = s.tags[v]))
    ∧ (∀ (d w line word sample : Nat) (r : Reducer), r.mode = .reducing →
        let h : Reducer := if r.line = none then { r with
            line := some line, lineLuma := r.lineLuma.map fun _ => 0, lineChroma := r.lineChroma.map fun _ => 0 } else r
        (word < w → r.addWord d w line word sample = { h with lineLuma := h.lineLuma.modify (word / d) (· + sample) })
          ∧ (w ≤ word → r.addWord d w line word sample = { h with
              lineChroma := h.lineChroma.modify (2 * ((word - w) / 2 / d) + (word - w) % 2) (· + sample) })
          ∧ r.dropLine = { r with
              line := none, lineLuma := r.lineLuma.map fun _ => 0, lineChroma := r.lineChroma.map fun _ => 0 })
    ∧ (∀ (d w line word sample : Nat) (r : Reducer), r.mode = .idle →
        r.addWord d w line word sample = r ∧ r.dropLine = r)
    ∧ ∀ (f : FeedId) (line : Nat) (s : State),
        let u := bandsComplete f (line / (s.feed f).params.decimation - (s.feed f).reducer.band) s
        let z := (u.feed f).reducer
        (z.mode = .idle → reduceLine f line s = u)
          ∧ (z.mode = .reducing → reduceLine f line s = u.setFeed f { u.feed f with reducer := { z with
              bandLuma := List.zipWith (· + ·) z.bandLuma z.lineLuma,
              bandChroma := List.zipWith (· + ·) z.bandChroma z.lineChroma, count := z.count + 1, line := none } })

/-- ROW_PART_QUEUE (chapter 4.1): while the feed has fewer than two row entries and the engine is NORMAL, an entry is made
for the oldest WAITING part, at its address and length, reading its buffer; the part becomes QUEUED, and nothing else of
the list changes. That it is a step of its own, which the step that raises its event does not take as well, is deduced
(log 4). Ages and the items' names are the model's own numbers (log 11). -/
def Obligations.RowPartQueued : Prop :=
  (∀ (f : FeedId) (s : State) (pre post : List RowItem) (i : RowItem) (before after : List RowPart) (p : RowPart),
    s.engine = .normal →
    (s.insQ.countP fun e => decide (e.source = .feed f) && decide (e.kind = .row)) < 2 →
    (s.feed f).rows.items = pre ++ i :: post → (∀ j ∈ pre, ∀ q ∈ j.parts, q.state ≠ .waiting) →
    i.parts = before ++ p :: after → (∀ q ∈ before, q.state ≠ .waiting) → p.state = .waiting →
    exec (.rowPartQueue f) s = .next
      { s.modFeed f (fun x => { x with rows := x.rows.markPart { item := i.ident, part := p.index } .queued }) with
        insQ := s.insQ ++ [{
          source := .feed f, kind := .row, row := some { item := i.ident, part := p.index },
          addr := i.addr + BitVec.ofNat 40 p.offset, length := p.length, lanes := .all,
          data := .buffer i.buffer p.offset, attempt := 1, age := s.nextAge, state := .queued }],
        nextAge := s.nextAge + 1 })
    ∧ ∀ (r : RowStore) (ref : RowRef) (v : PartState), r.markPart ref v = { r with
        items := r.items.map fun i => if i.ident = ref.item then
          { i with parts := i.parts.map fun p => if p.index = ref.part then { p with state := v } else p } else i }

/-! ### Catalogue and notices -/

/-- R98: the batch size is the least of the staged records, 16, the free entries, the entries to the ring end and the
entries to the next 4 KiB boundary, of which the fifth never exceeds the fourth; it is 0 exactly when nothing is staged
or the ring holds C unconsumed entries, and then no batch starts. -/
def Obligations.BatchSizeLeast : Prop :=
  ∀ (c : Catalogue) (d : CatalogueDef), (∃ k, k ≤ 10 ∧ d.entries = 64 * 2 ^ k) →
    (c.produced - c.consumed).toNat ≤ d.entries →
    let bounds := [c.staging.length, 16, d.entries - (c.produced - c.consumed).toNat,
      d.entries - c.produced.toNat % d.entries, 64 - c.produced.toNat % 64]
    (∀ b ∈ bounds, batchSize c d ≤ b) ∧ batchSize c d ∈ bounds
      ∧ 64 - c.produced.toNat % 64 ≤ d.entries - c.produced.toNat % d.entries
      ∧ (batchSize c d = 0 ↔ c.staging = [] ∨ (c.produced - c.consumed).toNat = d.entries)
      ∧ (batchSize c d = 0 → ∀ s : State, s.catalogue = c → c.defn = some d →
          exec .batchStart s = .next s ∧ exec .flushTimeoutExpiry s = .next s)

/-- BATCH_START and FLUSH_TIMEOUT_EXPIRY (chapter 5.4): with a catalogue defined, the engine NORMAL, no batch in flight or
in the queue, and a batch size of at least 1, a batch starts at the trigger level or when the oldest record has waited:
its entry carries the n oldest records to entry Wc mod C, and nothing else changes. Where a condition fails, nothing starts.
That both rows make the test of chapter 5.4 as steps of their own is the model's choice (log 5), and the difference of times
is plain (log 10). That a step whose conditions fail changes nothing is the model's choice (log 1). Ages are the
model's own numbers (log 11). -/
def Obligations.BatchStarts : Prop :=
  (∀ (s : State) (d : CatalogueDef), s.catalogue.defn = some d →
    let waited := ∃ r q, s.catalogue.staging = r :: q ∧ d.flushMs * 1000 ≤ s.timeBase.toNat - r.time.toNat
    let n := batchSize s.catalogue d
    let clear := s.engine = .normal ∧ s.catalogue.batch = none
      ∧ (∀ e ∈ s.insQ, ¬ (e.source = .catalogue ∧ e.kind = .batch)) ∧ 1 ≤ n
    let place := s.catalogue.produced.toNat % d.entries
    let started : State := { s with
      insQ := s.insQ ++ [{
        source := .catalogue, kind := .batch, row := none, addr := d.base + BitVec.ofNat 40 (64 * place),
        length := 64 * n, lanes := .all, data := .fixed ((s.catalogue.staging.take n).flatMap fun r => r.record.bytes),
        attempt := 1, age := s.nextAge, state := .queued }],
      nextAge := s.nextAge + 1,
      catalogue := { s.catalogue with batch := some { first := place, size := n } } }
    (clear → d.trigger ≤ s.catalogue.staging.length ∨ waited → exec .batchStart s = .next started)
      ∧ (clear → waited → exec .flushTimeoutExpiry s = .next started)
      ∧ (¬ (clear ∧ (d.trigger ≤ s.catalogue.staging.length ∨ waited)) → exec .batchStart s = .next s)
      ∧ (¬ (clear ∧ waited) → exec .flushTimeoutExpiry s = .next s))
    ∧ ∀ s : State, s.catalogue.defn = none → exec .batchStart s = .next s ∧ exec .flushTimeoutExpiry s = .next s

/-- An index record (chapters 4.7, 5.2, 5.3, 11.2) handed while fewer than 32 are staged is staged at the tail with the
lost-record count, which returns to 0, and the time base, and the start test of chapter 5.4 follows in the same step; one
handed while 32 are staged is dropped and counted, saturating at 65535, and no test follows. Its fields are those of the
record that is DONE, and its 64 bytes hold them at the offsets of chapter 11.2. The test is stated as BATCH_START,
which is that test as a step of its own by the model's choice (log 5). -/
def Obligations.IndexStaging : Prop :=
  (∀ (r : IndexRecord) (s : State),
    (s.catalogue.staging.length < 32 → exec .batchStart { s with catalogue := { s.catalogue with
        staging := s.catalogue.staging ++
          [{ record := { r with lostBefore := s.catalogue.lost }, time := s.timeBase }],
        lost := 0 } } = .next (stageIndex r s))
      ∧ (32 ≤ s.catalogue.staging.length → stageIndex r s = { s with catalogue := { s.catalogue with
          lost := min 65535 (s.catalogue.lost + 1) } })
      ∧ (s.catalogue.staging.length ≤ 32 → (stageIndex r s).catalogue.staging.length ≤ 32))
    ∧ (∀ (f : FeedId) (p : FeedDef) (r : FrameRecord), indexRecord f p r = {
        feed := f, tag := p.tag, conditions := r.conditions, serial := r.serial, timecode := r.timecode,
        reason := r.reason, untrackedBefore := r.untrackedBefore, lostBefore := 0, openTime := r.openTime,
        ingestAddr := r.ingestAddr, frameLength := r.frameLength, linesMissing := r.linesMissing,
        sequenceGaps := r.sequenceGaps, peaks := r.peaks.map fun k => k / 128,
        slotAddr := r.slot.map fun k => p.browseBase + BitVec.ofNat 40 (k * p.slotSize) })
    ∧ ∀ (r : IndexRecord), recordHolds r.bytes 64 [
        (0, 1, r.feed.val), (1, 1, r.tag.toNat), (2, 2, r.conditions.toNat), (4, 4, r.serial.toNat),
        (8, 1, r.timecode.frames.toNat), (9, 1, r.timecode.seconds.toNat), (10, 1, r.timecode.minutes.toNat),
        (11, 1, r.timecode.hours.toNat), (12, 1, match r.reason with
          | .none => 0 | .suspended => 1 | .geometry => 2 | .slotSize => 3 | .ringFull => 4 | .abandoned => 5),
        (13, 1, r.untrackedBefore), (14, 2, r.lostBefore), (16, 8, r.openTime.toNat), (24, 8, r.ingestAddr.toNat),
        (32, 4, r.frameLength), (36, 2, r.linesMissing), (38, 2, r.sequenceGaps),
        (40, 8, match r.slotAddr with
          | none => 0
          | some a => a.toNat),
        (48, 2, r.peaks[0]), (50, 2, r.peaks[1]), (52, 2, r.peaks[2]), (54, 2, r.peaks[3]),
        (56, 2, r.peaks[4]), (58, 2, r.peaks[5]), (60, 2, r.peaks[6]), (62, 2, r.peaks[7])]

/-- Notices (chapters 9.4, 11.2). An event notice found fewer than 8 staged is staged with the time base and the lost-notice
count, which returns to 0, and the write test follows in the same step; with 8 staged it is dropped and counted, saturating
at 255, and no test follows. NOTICE_ENTRY_MAKE is that test, as a step of its own by the model's choice (log 5): with a
notice staged, none in the insertion queue, fewer than 64 slots in use and the engine NORMAL, an entry of 32 bytes is made
for the head notice at slot Pn mod 64; else nothing happens. The bytes of each of the four kinds stand where chapter 11.2
puts them. That a step whose conditions fail changes nothing is the model's choice (log 1). Ages are the model's own
numbers (log 11). -/
def Obligations.NoticeEntryMade : Prop :=
  (∀ s : State, exec .noticeEntryMake s = .next s.noticeTested
    ∧ (∀ n rest, s.notices.staging = n :: rest → (∀ e ∈ s.insQ, e.kind ≠ .notice) →
        (s.notices.produced - s.notices.consumed).toNat < 64 → s.engine = .normal →
        exec .noticeEntryMake s = .next { s with
          insQ := s.insQ ++ [{
            source := .notice, kind := .notice, row := none,
            addr := BitVec.ofNat 40 (s.straps.toNat * 4294967296 + (0x1000 + 32 * (s.notices.produced.toNat % 64))),
            length := 32, lanes := .all,
            data := .fixed n.bytes, attempt := 1, age := s.nextAge, state := .queued }],
          nextAge := s.nextAge + 1 })
      ∧ (s.notices.staging = [] ∨ (∃ e ∈ s.insQ, e.kind = .notice)
          ∨ 64 ≤ (s.notices.produced - s.notices.consumed).toNat ∨ s.engine = .controlPathFailed →
          exec .noticeEntryMake s = .next s))
    ∧ (∀ (body : NoticeBody) (s : State),
      (s.notices.staging.length < 8 → exec .noticeEntryMake { s with notices := { s.notices with
          staging := s.notices.staging ++ [{ time := s.timeBase, lost := s.notices.lost, body := body }], lost := 0 } }
            = .next (stageEvent body s))
        ∧ (8 ≤ s.notices.staging.length → stageEvent body s = { s with notices := { s.notices with
            lost := min 255 (s.notices.lost + 1) } }))
    ∧ ∀ n : Notice, recordHolds n.bytes 32 ((1, 1, n.lost) :: (8, 8, n.time.toNat) :: (match n.body with
        | .commandDone serial opcode feedField result detail =>
          [(0, 1, 1), (2, 1, opcode.toNat), (3, 1, feedField.toNat), (4, 2, serial.toNat), (6, 1, match result with
              | .done => 0 | .busy => 1 | .noFeed => 2 | .badParameter => 3 | .overlap => 4 | .noCatalogue => 5
              | .unknownCommand => 6), (7, 1, 0), (16, 2, detail), (18, 14, 0)]
        | .feedLost f lastArrival closed =>
          [(0, 1, 2), (2, 1, 0), (3, 1, f.val), (4, 4, 0), (16, 8, lastArrival.toNat), (24, 4, match closed with
              | none => 0
              | some serial => serial.toNat), (28, 1, if closed = none then 0 else 1), (29, 3, 0)]
        | .feedRestored f arrival =>
          [(0, 1, 3), (2, 1, 0), (3, 1, f.val), (4, 4, 0), (16, 8, arrival.toNat), (24, 8, 0)]
        | .feedFault f cause discarded =>
          [(0, 1, 4), (2, 1, 0), (3, 1, f.val), (4, 4, 0), (16, 1, match cause with
              | .browseWriteFailed => 1 | .publishWriteFailed => 2 | .noLock => 3), (17, 1, discarded), (18, 14, 0)]))

/-! ### Commands -/

/-- SET_CATALOGUE (chapters 5.1, 11.1): the first result that applies of BUSY, BAD PARAMETER, OVERLAP and DONE; on DONE the
four parameters are the definition and the ring is the catalogue region, Wc, Rc and the lost-record count are 0 and the word
state NONE; a refused command changes nothing but its notice. The parameters are read at their offsets and full widths. -/
def Obligations.SetCatalogue : Prop :=
  ∀ (s : State) (c : Command) (rest : List Command), s.headRuns c rest 0x01 →
    let base := fieldAt c.bytes 8 8
    let entries := fieldAt c.bytes 16 4
    let trigger := fieldAt c.bytes 20 1
    let flush := fieldAt c.bytes 22 2
    let result : CommandResult :=
      if (∃ f : FeedId, (s.feed f).life.state ≠ .vacant) ∨ s.catalogue.staging ≠ []
          ∨ ∃ e ∈ s.insQ, e.source = .catalogue then .busy
      else if ¬ (base % 4096 = 0 ∧ (∃ k : Fin 11, entries = 64 * 2 ^ k.val)
          ∧ (trigger = 1 ∨ trigger = 2 ∨ trigger = 4 ∨ trigger = 8 ∨ trigger = 16)
          ∧ 1 ≤ flush ∧ flush ≤ 1000 ∧ base + 64 * entries ≤ 2 ^ 40) then .badParameter
      else if rangesShare base (64 * entries) s.controlBase 65536 = true then .overlap
      else .done
    let placed : State := { s with catalogue := { s.catalogue with
      defn := some { base := BitVec.ofNat 40 base, entries := entries, trigger := trigger, flushMs := flush },
      region := some { base := BitVec.ofNat 40 base, limit := BitVec.ofNat 40 (base + 64 * entries - 1) },
      produced := 0, consumed := 0, lost := 0, word := .none } }
    exec .setCatalogue s = .next ((if result = .done then placed else s).answered c rest result 0)

/-- DEFINE_FEED (chapters 6.2, 7.2, 11.1): BUSY for a feed that is not VACANT or has a record staged, then NO CATALOGUE, BAD
PARAMETER and OVERLAP, of the two windows with each other, the control block, the catalogue region or a window of another
feed, else DONE: the feed is DEFINED with its parameters and windows, its counters 0, its parser, frame unit, reducer and
publisher at their reset values with the cursor at the ingest base, and both use counts 0. A VACANT feed has no window
(statement RingWindowsKept). -/
def Obligations.DefineFeed : Prop :=
  ∀ (s : State) (c : Command) (rest : List Command) (f : FeedId), s.headRuns c rest 0x02 →
    c.feedField = BitVec.ofNat 8 f.val →
    let x := s.feed f
    let p (offset size : Nat) : Nat := fieldAt c.bytes offset size
    let ingestBase := p 8 8
    let ingestSize := p 16 4
    let slotSize := p 20 4
    let browseBase := p 24 8
    let slotCount := p 32 2
    let browseSize := slotCount * slotSize
    let clash (base size : Nat) : Prop :=
      rangesShare ingestBase ingestSize base size = true ∨ rangesShare browseBase browseSize base size = true
    let result : CommandResult :=
      if x.life.state ≠ .vacant ∨ ∃ r ∈ s.catalogue.staging, r.record.feed = f then .busy
      else if s.catalogue.defn = none then .noCatalogue
      else if ¬ ((∃ k : Fin 15, ingestSize = 65536 * 2 ^ k.val) ∧ ingestBase % ingestSize = 0
          ∧ ingestBase + ingestSize ≤ 2 ^ 40 ∧ browseBase % 4096 = 0 ∧ 4096 ≤ slotSize ∧ slotSize ≤ 16777216
          ∧ slotSize % 4096 = 0 ∧ 2 ≤ slotCount ∧ slotCount ≤ 256 ∧ browseBase + browseSize ≤ 2 ^ 40
          ∧ (p 5 1 = 2 ∨ p 5 1 = 4 ∨ p 5 1 = 8) ∧ p 6 1 ≤ 1 ∧ p 7 1 ≤ 5 ∧ p 34 1 ≤ 3 ∧ p 36 2 ≤ 1000) then .badParameter
      else if rangesShare ingestBase ingestSize browseBase browseSize = true ∨ clash s.controlBase 65536
          ∨ (∃ g ∈ s.catalogue.region, clash g.base.toNat g.size)
          ∨ (∃ h : FeedId, h ≠ f ∧ ((∃ w ∈ (s.feed h).ingest, clash w.base.toNat w.size)
            ∨ ∃ g ∈ (s.feed h).browse, clash g.base.toNat g.size)) then .overlap
      else .done
    let placed : State := s.setFeed f {
      life := { state := .defined, presence := .awaiting, lastArrival := 0, fault := none, drain := none,
                counters := Counters.zero, defn := some {
                  tag := c.bytes.getD 4 0, ingestBase := BitVec.ofNat 40 ingestBase, ingestSize := ingestSize,
                  browseBase := BitVec.ofNat 40 browseBase, slotSize := slotSize, slotCount := slotCount,
                  decimation := p 5 1, legalClamp := decide (p 6 1 = 1), rateCode := p 7 1, priority := p 34 1,
                  lossTimeout := p 36 2 } },
      ingest := some { base := BitVec.ofNat 40 ingestBase, mask := ~~~(BitVec.ofNat 40 (ingestSize - 1)) },
      browse := some { base := BitVec.ofNat 40 browseBase, limit := BitVec.ofNat 40 (browseBase + browseSize - 1) },
      missPending := false, parse := { ParseContext.reset with cursor := BitVec.ofNat 40 ingestBase },
      frame := FrameUnit.reset, reducer := Reducer.reset, publisher := Publisher.reset,
      rows := { x.rows with buffer0 := { x.rows.buffer0 with useCount := 0 },
                            buffer1 := { x.rows.buffer1 with useCount := 0 } } }
    exec .defineFeed s = .next ((if result = .done then placed else s).answered c rest result 0)

/-- START_FEED, SUSPEND_FEED and RESUME_FEED (chapter 6.3): START of a DEFINED feed makes it ACTIVE, AWAITING and hunting
with no timecode expected; SUSPEND and RESUME move an ACTIVE and a SUSPENDED feed, are DONE without change where it is
there already, and change nothing else of it; in every other state the result is BUSY. -/
def Obligations.StartSuspendResume : Prop :=
  ∀ (s : State) (c : Command) (rest : List Command) (f : FeedId), c.feedField = BitVec.ofNat 8 f.val →
    let x := s.feed f
    let inState (v : FeedState) : State := s.setFeed f { x with life := { x.life with state := v } }
    (s.headRuns c rest 0x03 →
        (x.life.state = .defined → exec .startFeed s = .next ((s.setFeed f { x with
            life := { x.life with state := .active, presence := .awaiting },
            parse := { x.parse with state := .hunt, budget := 0, residue := 0, packet := none },
            frame := { x.frame with expectedTimecode := none } }).answered c rest .done 0))
          ∧ (x.life.state ≠ .defined → exec .startFeed s = .next (s.answered c rest .busy 0)))
      ∧ (s.headRuns c rest 0x04 →
          (x.life.state = .active → exec .suspendFeed s = .next ((inState .suspended).answered c rest .done 0))
            ∧ (x.life.state = .suspended → exec .suspendFeed s = .next (s.answered c rest .done 0))
            ∧ (x.life.state ≠ .active → x.life.state ≠ .suspended →
                exec .suspendFeed s = .next (s.answered c rest .busy 0)))
      ∧ (s.headRuns c rest 0x05 →
          (x.life.state = .suspended → exec .resumeFeed s = .next ((inState .active).answered c rest .done 0))
            ∧ (x.life.state = .active → exec .resumeFeed s = .next (s.answered c rest .done 0))
            ∧ (x.life.state ≠ .active → x.life.state ≠ .suspended →
                exec .resumeFeed s = .next (s.answered c rest .busy 0)))

/-- RETIRE FEED, both steps (chapter 6.5): DONE without change for a VACANT feed; a DEFINED feed becomes VACANT and its
windows leave the table; a FAULTED one becomes DRAINING with discard count 0 and no notice; a DRAINING one is BUSY. In
mode AT FRAME END a running feed with a frame open becomes DRAINING with retire pending set; with none open its parser
stops at once. A mode that is neither is BAD PARAMETER by either step (log 22). -/
def Obligations.RetireFeed : Prop :=
  ∀ (s : State) (c : Command) (rest : List Command) (f : FeedId), s.headRuns c rest 0x06 →
    c.feedField = BitVec.ofNat 8 f.val →
    let x := s.feed f
    let drain : Lifecycle := { x.life with
      state := .draining, drain := some { serial := c.serial, discarded := 0 } }
    let left (u : State) : State := { u with commands := { queue := rest, phase := .ready } }
    (∀ step ∈ [Instr.retireFeedAtFrameEnd, .retireFeedNow],
        (step = .retireFeedAtFrameEnd ∧ c.retireMode = some .atFrameEnd
            ∨ step = .retireFeedNow ∧ c.retireMode = some .now →
          (x.life.state = .vacant → exec step s = .next (s.answered c rest .done 0))
            ∧ (x.life.state = .defined → exec step s = .next ((s.setFeed f { x with
                life := { x.life with state := .vacant, drain := none }, ingest := none,
                browse := none }).answered c rest .done 0))
            ∧ (x.life.state = .faulted → exec step s = .next (left (s.setFeed f { x with life := drain })))
            ∧ (x.life.state = .draining → exec step s = .next (s.answered c rest .busy 0)))
          ∧ (c.retireMode = none → exec step s = .next (s.answered c rest .badParameter 0)))
      ∧ (c.retireMode = some .atFrameEnd → (x.life.state = .active ∨ x.life.state = .suspended) →
          (x.frame.openFrame ≠ .none → exec .retireFeedAtFrameEnd s = .next
              (left (s.setFeed f { x with life := drain, frame := { x.frame with retirePending := true } })))
            ∧ (x.frame.openFrame = .none → ∃ t : State, exec .retireFeedAtFrameEnd s = .next t
                ∧ (t.feed f).life = drain ∧ (t.feed f).parse.state = .idle ∧ (t.feed f).parse.packet = none
                ∧ (t.feed f).frame.records = x.frame.records ∧ (t.feed f).rows = x.rows
                ∧ (t.feed f).publisher = x.publisher ∧ t.tapQ = s.tapQ.filter (fun e => decide (e.feed ≠ f))
                ∧ t.insQ = s.insQ ∧ t.notices = s.notices ∧ t.commands = { queue := rest, phase := .ready }
                ∧ ∀ g : FeedId, g ≠ f → t.feed g = s.feed g))

/-- RETIRE_FEED_NOW of an ACTIVE or SUSPENDED feed (chapters 3.4, 4.2, 4.3, 6.5), one event: DRAINING, its parser stopped, its
tap entries purged, its records discarded and counted, its entries removed or orphaned, its row writes dealt with, A at P, and
stale set where a publish-word entry went; no notice yet. That the publish word's state is then NONE is deduced (log
16). So is that a dropped part leaves its item (log 25). -/
def Obligations.RetireNow : Prop :=
  ∀ (s : State) (c : Command) (rest : List Command) (f : FeedId), s.headRuns c rest 0x06 →
    c.feedField = BitVec.ofNat 8 f.val → c.retireMode = some .now →
    ((s.feed f).life.state = .active ∨ (s.feed f).life.state = .suspended) →
    let x := s.feed f
    ∃ t : State, exec .retireFeedNow s = .next t
      ∧ (t.feed f).life = { x.life with
          state := .draining,
          drain := some { serial := c.serial, discarded := x.frame.records.length } }
      ∧ (t.feed f).parse.state = .idle ∧ (t.feed f).parse.packet = none ∧ (t.feed f).frame.records = []
      ∧ (t.feed f).frame.openFrame = .none ∧ (t.feed f).frame.retirePending = false
      ∧ (t.feed f).reducer.mode = .idle ∧ (t.feed f).publisher = { x.publisher with
          assigned := x.publisher.published, word := .none,
          stale := x.publisher.stale || s.insQ.any fun e => decide (e.source = .feed f) && decide (e.kind = .publishWord) }
      ∧ x.rows.deals (fun _ => true) none (t.feed f).rows
      ∧ t.insQ = s.insQ.filter (fun e => decide (e.source ≠ .feed f))
      ∧ (∀ e ∈ s.insQ, ∀ u : Tag, e.source = .feed f → e.state = .issued u →
          (∀ z ∈ s.insQ, z.state = .issued u → z = e) → t.tags[u] = .orphaned ⟨e.source, e.kind, e.row⟩)
      ∧ (∀ e ∈ s.insQ, ∀ u : Tag, e.source = .feed f → e.state = .issued u →
          ∃ i : EntryIdent, t.tags[u] = .orphaned i ∧ i.source = .feed f)
      ∧ (∀ u : Tag, (∀ e ∈ s.insQ, e.source = .feed f → e.state ≠ .issued u) → t.tags[u] = s.tags[u])
      ∧ t.tapQ = s.tapQ.filter (fun e => decide (e.feed ≠ f)) ∧ t.notices = s.notices
      ∧ t.commands = { queue := rest, phase := .ready } ∧ t.catalogue = s.catalogue
      ∧ ∀ g : FeedId, g ≠ f → t.feed g = s.feed g

/-- RESTART_FEED (chapter 6.6): BUSY for a feed that is not FAULTED, and while a tag orphaned from one of its entries is
outstanding, from before a RESET ENGINE too (log 28); else the feed is ACTIVE, AWAITING and hunting, with no fault word and
no timecode expected, and where stale was set a publish-word entry carrying P is made. Ages are the model's own numbers
(log 11). -/
def Obligations.RestartFeed : Prop :=
  ∀ (s : State) (c : Command) (rest : List Command) (f : FeedId), s.headRuns c rest 0x07 →
    c.feedField = BitVec.ofNat 8 f.val →
    let x := s.feed f
    let owns := ∃ u : Tag, ∃ i : EntryIdent, s.tags[u] = .orphaned i ∧ i.source = .feed f
    let running : Feed := { x with
      life := { x.life with state := .active, presence := .awaiting, fault := none },
      parse := { x.parse with state := .hunt, budget := 0, residue := 0, packet := none },
      frame := { x.frame with expectedTimecode := none },
      publisher := { x.publisher with stale := false } }
    (x.life.state ≠ .faulted ∨ owns → exec .restartFeed s = .next (s.answered c rest .busy 0))
      ∧ (x.life.state = .faulted → ¬ owns → x.publisher.stale = false →
          exec .restartFeed s = .next ((s.setFeed f running).answered c rest .done 0))
      ∧ (x.life.state = .faulted → ¬ owns → x.publisher.stale = true →
          (∀ e ∈ s.insQ, ¬ (e.source = .feed f ∧ e.kind = .publishWord)) →
          exec .restartFeed s = .next (State.answered { s.setFeed f
              { running with publisher := { running.publisher with word := .queued } } with
            insQ := s.insQ ++ [WordId.entry (.publish f) s.nextAge s],
            nextAge := s.nextAge + 1 } c rest .done 0))

/-- REPORT FEED (chapters 9.3, 11.2): its execution makes one entry of 128 bytes that hold the feed's values at that moment,
each at its offset of chapter 11.2, and the head is REPORTING; the entry's answer without error makes it REPORTED;
REPORT_NOTICE_STAGE then stages its COMMAND DONE where there is room, and does nothing where there is none. That the
staging is a step of its own is deduced (log 4). That a step whose conditions fail changes nothing is the model's
choice (log 1). Ages are the model's own numbers (log 11). -/
def Obligations.ReportFeed : Prop :=
  (∀ (s : State) (c : Command) (rest : List Command),
    (∀ f : FeedId, s.headRuns c rest 0x08 → c.feedField = BitVec.ofNat 8 f.val →
        (∀ e ∈ s.insQ, ¬ (e.source = .report ∧ e.kind = .statusRecord)) →
        exec .reportFeed s = .next { s with
          insQ := s.insQ ++ [{
            source := .report, kind := .statusRecord, row := none,
            addr := BitVec.ofNat 40 (s.straps.toNat * 4294967296 + (0x2000 + 128 * f.val)), length := 128, lanes := .all,
            data := .fixed (statusBytes f s.timeBase (s.feed f)), attempt := 1, age := s.nextAge, state := .queued }],
          nextAge := s.nextAge + 1,
          commands := { s.commands with phase := .reporting } })
      ∧ (∀ (e : InsEntry) (t : Tag), s.inFlight e t → s.engine = .normal → e.kind = .statusRecord →
          e.source = .report → s.commands.phase = .reporting →
          exec (.insertionAnswer t .ok) s = .next { s.freed e t with commands := { s.commands with phase := .reported } })
      ∧ (s.commands.phase = .reported → s.commands.queue = c :: rest → s.engine = .normal →
          (s.notices.staging.length < 8 → exec .reportNoticeStage s = .next (s.answered c rest .done 0))
            ∧ (8 ≤ s.notices.staging.length → exec .reportNoticeStage s = .next s)))
    ∧ ∀ (f : FeedId) (time : Time) (x : Feed) (p : FeedDef), x.life.defn = some p ∨ x.life.defn = none ∧ p = FeedDef.zero →
        let k := x.life.counters
        recordHolds (statusBytes f time x) 128 [
          (0, 1, f.val), (1, 1, match x.life.state with
            | .vacant => 0 | .defined => 1 | .active => 2 | .suspended => 3 | .draining => 4 | .faulted => 5),
          (2, 1, match x.life.presence with
            | .awaiting => 0 | .present => 1 | .absent => 2),
          (3, 1, x.frame.records.length), (4, 1, match x.life.fault.map FaultWord.first with
            | none => 0 | some .browseWriteFailed => 1 | some .publishWriteFailed => 2 | some .noLock => 3),
          (5, 1, if x.life.fault.any FaultWord.furtherBrowse then 1 else 0), (6, 1, p.tag.toNat), (7, 1, p.decimation),
          (8, 8, time.toNat), (16, 8, x.life.lastArrival.toNat), (24, 8, p.ingestBase.toNat), (32, 4, p.ingestSize),
          (36, 4, p.slotSize), (40, 8, p.browseBase.toNat), (48, 2, p.slotCount), (50, 1, p.rateCode),
          (51, 1, if p.legalClamp then 1 else 0), (52, 1, p.priority), (53, 1, 0), (54, 2, p.lossTimeout),
          (56, 4, x.publisher.assigned.toNat), (60, 4, x.publisher.published.toNat), (64, 4, x.publisher.released.toNat),
          (68, 4, x.frame.nextSerial.toNat), (72, 4, k.framesOpened), (76, 4, k.framesPublished), (80, 4, k.browseAbsent),
          (84, 4, k.breaks), (88, 4, k.headerRejects), (92, 4, k.tapMisses), (96, 4, k.strayPackets),
          (100, 4, k.sequenceGaps), (104, 4, k.untrackedFrames), (108, 4, k.badReleases), (112, 16, 0)]

/-- RESET_ENGINE (chapters 7.7, 8.6, 9.3), at the head in either engine condition: every other command is removed and
counted, every block is at its reset values, every insertion entry is removed, the tag of an ISSUED one ORPHANED with its
identity, and the reset's COMMAND DONE is the one notice staged, its entry made at slot 0 and alone in the insertion queue;
the forward queue, the FORWARD tags, the time base, the straps and the row buffers' bytes are left; both lines are
deasserted. That a tag's entry is the one ISSUED on it is deduced (log 13). Ages are the model's own numbers
(log 11). -/
def Obligations.ResetEngine : Prop :=
  ∀ (s : State) (c : Command) (rest : List Command), s.commands.phase = .ready → s.commands.queue = c :: rest →
    c.opcodeByte = 0x09 → s.tagsAgree →
    let done : Notice := {
      time := s.timeBase, lost := 0, body := .commandDone c.serial 0x09 c.feedField .done rest.length }
    ∃ t : State, exec .resetEngine s = .next t
      ∧ t.forwardQ = s.forwardQ ∧ t.timeBase = s.timeBase ∧ t.straps = s.straps ∧ t.tapQ = []
      ∧ t.insQ = [{
          source := .notice, kind := .notice, row := none,
          addr := BitVec.ofNat 40 (s.straps.toNat * 4294967296 + 0x1000), length := 32, lanes := .all,
          data := .fixed done.bytes, attempt := 1, age := 0, state := .queued }]
      ∧ t.nextAge = 1
      ∧ t.credit = 0 ∧ t.engine = .normal ∧ t.attention = false ∧ t.faultLine = false
      ∧ t.commands = { queue := [], phase := .ready }
      ∧ t.notices = {
          staging := [done], produced := 0, consumed := 0, lost := 0, word := .none }
      ∧ t.catalogue = Catalogue.reset
      ∧ (∀ u : Tag, match s.tags[u] with
          | .insertion => ∃ e ∈ s.insQ, e.state = .issued u ∧ t.tags[u] = .orphaned ⟨e.source, e.kind, e.row⟩
          | .free | .forward _ _ | .orphaned _ => t.tags[u] = s.tags[u])
      ∧ ∀ f : FeedId, t.feed f = { Feed.reset with rows := {
          buffer0 := { useCount := 0, cells := (s.feed f).rows.buffer0.cells },
          buffer1 := { useCount := 0, cells := (s.feed f).rows.buffer1.cells }, items := [] } }

/-- The tests before a command's own (chapter 9.2): an opcode that names none of the nine gives UNKNOWN COMMAND, and a feed
field above 15 gives NO FEED to the commands that name a feed, RETIRE in either mode, with no other effect. In CONTROL
PATH FAILED a head command other than RESET ENGINE is discarded without a result (chapter 9.6). That a RETIRE
whose mode is neither gets NO FEED by either step is the model's choice (log 22). -/
def Obligations.RefusedCommands : Prop :=
  ∀ (s : State) (c : Command) (rest : List Command) (code : Byte),
    (s.headRuns c rest code → code = 0 ∨ 9 < code.toNat →
        exec .unknownCommand s = .next (s.answered c rest .unknownCommand 0))
      ∧ (s.headRuns c rest code → 15 < c.feedField.toNat →
          ∀ step : Instr, (step, code) ∈ [(Instr.defineFeed, (0x02 : Byte)), (.startFeed, 0x03), (.suspendFeed, 0x04),
              (.resumeFeed, 0x05), (.restartFeed, 0x07), (.reportFeed, 0x08)]
            ∨ (code = 0x06 ∧ step = .retireFeedAtFrameEnd ∧ c.retireMode ≠ some .now)
            ∨ (code = 0x06 ∧ step = .retireFeedNow ∧ c.retireMode ≠ some .atFrameEnd) →
          exec step s = .next (s.answered c rest .noFeed 0))
      ∧ (s.engine = .controlPathFailed → s.commands.queue = c :: rest → c.opcodeByte ≠ 0x09 →
          exec .commandDiscard s = .next { s with commands := { queue := rest, phase := .ready } })

/-- DRAIN_EXIT (chapter 6.5): a DRAINING feed whose context is IDLE, with no record, no row write, no entry and no orphaned
tag, becomes VACANT when a notice has room and the engine is NORMAL; its windows leave the table and the COMMAND DONE of
its RETIRE carries the discard count. While any of these fails nothing happens. A tag orphaned before a RESET ENGINE
counts too (deduced, log 28). That it is a step of its own, which the step that raises its event does not take as well,
is deduced (log 4). That a step whose conditions fail changes nothing is the model's choice (log 1). -/
def Obligations.DrainExit : Prop :=
  ∀ (f : FeedId) (s : State),
    let x := s.feed f
    let finished := x.life.state = .draining ∧ x.parse.state = .idle ∧ x.frame.records = [] ∧ x.rows.items = []
      ∧ (∀ e ∈ s.insQ, e.source ≠ .feed f)
      ∧ (∀ u : Tag, ∀ i : EntryIdent, s.tags[u] = .orphaned i → i.source ≠ .feed f)
      ∧ s.notices.staging.length < 8 ∧ s.engine = .normal
    (∀ d, finished → x.life.drain = some d →
        exec (.drainExit f) s = .next (State.noticeStaged
          (.commandDone d.serial 0x06 (BitVec.ofNat 8 f.val) .done d.discarded)
          (s.setFeed f { x with
            life := { x.life with state := .vacant, drain := none }, ingest := none, browse := none })))
      ∧ (¬ finished → exec (.drainExit f) s = .next s)

/-! ### What every step keeps -/

/-- Every step keeps every queue within its capacity and the credit count within its range, and keeps every row buffer in
its canonical form (chapters 2.1, 5.3, 7.3, 7.6, 8.4, 9.2, 9.4). The canonical form, in which a byte not listed reads
as 0, is the model's (log 9). -/
def Obligations.BoundsKept : Prop :=
  ∀ s t : State, s.withinCapacity → s.buffersWf → step s = .next t → t.withinCapacity ∧ t.buffersWf

/-- Every step keeps the insertion queue within its quotas, in age order, and in agreement with the INSERTION tags
(chapters 7.4 and 8.2 to 8.4). That a tag's entry is the one ISSUED on it is deduced (log 13). Ages are the model's own
numbers (log 11). -/
def Obligations.InsertionQueueKept : Prop :=
  ∀ s t : State, s.quotasKept → s.agesRise → s.tagsAgree → step s = .next t →
    t.quotasKept ∧ t.agesRise ∧ t.tagsAgree

/-- Every step keeps each feed's frames in order, at most one record OPEN and that the newest, a tracked open frame's, which
has the serial given last, and R ≤ P ≤ A ≤ R + slot count, with A − P the records that have browse (chapters 2.1, 2.2 and
4.3). -/
def Obligations.PublishingKept : Prop :=
  ∀ s t : State, s.publishing → step s = .next t → t.publishing

/-- Every step keeps each buffer's use count equal to the number of items that name it, and the parser of a VACANT, DEFINED
or FAULTED feed IDLE (chapters 4.1 and 6.1). -/
def Obligations.RowsCountedKept : Prop :=
  ∀ s t : State, s.rowsCounted → step s = .next t → t.rowsCounted

/-- Windows. The catalogue producer count never exceeds the consumer copy by more than the entry count, and the notice
producer count never exceeds its consumer copy by more than 64: every step keeps both (chapters 5.4 and 9.4). No two windows
of the window table share a byte, and every step keeps them apart (chapters 5.1, 6.2, 7.2); an address then passes the test
of one class at most, whatever their order, and an ingest window's test is its byte range. -/
def Obligations.RingWindowsKept : Prop :=
  (∀ s t : State, s.catalogueWindow → s.noticeWindow → step s = .next t → t.catalogueWindow ∧ t.noticeWindow)
    ∧ (∀ s t : State, s.windowsApart → step s = .next t → t.windowsApart)
    ∧ ∀ (s : State) (a : Addr), s.windowsApart →
        (classify s a = .control ↔
            s.straps.toNat * 4294967296 ≤ a.toNat ∧ a.toNat < s.straps.toNat * 4294967296 + 65536)
          ∧ (classify s a = .catalogue ↔ ∃ g ∈ s.catalogue.region, g.base.toNat ≤ a.toNat ∧ a.toNat ≤ g.limit.toNat)
          ∧ (∀ f : FeedId, classify s a = .ingest f ↔ ∃ w ∈ (s.feed f).ingest, a &&& w.mask = w.base)
          ∧ (∀ f : FeedId, classify s a = .browse f ↔
              ∃ g ∈ (s.feed f).browse, g.base.toNat ≤ a.toNat ∧ a.toNat ≤ g.limit.toNat)
          ∧ ∀ f : FeedId, ∀ w ∈ (s.feed f).ingest,
              (a &&& w.mask = w.base ↔ w.base.toNat ≤ a.toNat ∧ a.toNat < w.base.toNat + w.size)
end

