-- ==== Sys2Proof/Laws/State.lean ====
section
/-! SUPPORT. The small lemmas of the state's updates: what each shared operation leaves as it was, one lemma per
field. Later proofs rewrite with them and unfold no record update. -/

namespace Sys2Proof.Machine

/-! ### One feed replaced -/

@[simp] theorem State.setFeed_pending (s : State) (f : FeedId) (x : Feed) : (s.setFeed f x).pending = s.pending := rfl
@[simp] theorem State.setFeed_straps (s : State) (f : FeedId) (x : Feed) : (s.setFeed f x).straps = s.straps := rfl
@[simp] theorem State.setFeed_timeBase (s : State) (f : FeedId) (x : Feed) : (s.setFeed f x).timeBase = s.timeBase := rfl
@[simp] theorem State.setFeed_forwardQ (s : State) (f : FeedId) (x : Feed) : (s.setFeed f x).forwardQ = s.forwardQ := rfl
@[simp] theorem State.setFeed_tapQ (s : State) (f : FeedId) (x : Feed) : (s.setFeed f x).tapQ = s.tapQ := rfl
@[simp] theorem State.setFeed_tags (s : State) (f : FeedId) (x : Feed) : (s.setFeed f x).tags = s.tags := rfl
@[simp] theorem State.setFeed_insQ (s : State) (f : FeedId) (x : Feed) : (s.setFeed f x).insQ = s.insQ := rfl
@[simp] theorem State.setFeed_nextAge (s : State) (f : FeedId) (x : Feed) : (s.setFeed f x).nextAge = s.nextAge := rfl
@[simp] theorem State.setFeed_credit (s : State) (f : FeedId) (x : Feed) : (s.setFeed f x).credit = s.credit := rfl
@[simp] theorem State.setFeed_catalogue (s : State) (f : FeedId) (x : Feed) : (s.setFeed f x).catalogue = s.catalogue := rfl
@[simp] theorem State.setFeed_commands (s : State) (f : FeedId) (x : Feed) : (s.setFeed f x).commands = s.commands := rfl
@[simp] theorem State.setFeed_notices (s : State) (f : FeedId) (x : Feed) : (s.setFeed f x).notices = s.notices := rfl
@[simp] theorem State.setFeed_engine (s : State) (f : FeedId) (x : Feed) : (s.setFeed f x).engine = s.engine := rfl
@[simp] theorem State.setFeed_nextRowId (s : State) (f : FeedId) (x : Feed) : (s.setFeed f x).nextRowId = s.nextRowId := rfl
@[simp] theorem State.setFeed_memPort (s : State) (f : FeedId) (x : Feed) : (s.setFeed f x).memPort = s.memPort := rfl
@[simp] theorem State.setFeed_fabricPort (s : State) (f : FeedId) (x : Feed) : (s.setFeed f x).fabricPort = s.fabricPort := rfl

@[simp] theorem State.modFeed_pending (s : State) (f : FeedId) (g : Feed → Feed) : (s.modFeed f g).pending = s.pending := rfl
@[simp] theorem State.modFeed_straps (s : State) (f : FeedId) (g : Feed → Feed) : (s.modFeed f g).straps = s.straps := rfl
@[simp] theorem State.modFeed_timeBase (s : State) (f : FeedId) (g : Feed → Feed) : (s.modFeed f g).timeBase = s.timeBase := rfl
@[simp] theorem State.modFeed_forwardQ (s : State) (f : FeedId) (g : Feed → Feed) : (s.modFeed f g).forwardQ = s.forwardQ := rfl
@[simp] theorem State.modFeed_tapQ (s : State) (f : FeedId) (g : Feed → Feed) : (s.modFeed f g).tapQ = s.tapQ := rfl
@[simp] theorem State.modFeed_tags (s : State) (f : FeedId) (g : Feed → Feed) : (s.modFeed f g).tags = s.tags := rfl
@[simp] theorem State.modFeed_insQ (s : State) (f : FeedId) (g : Feed → Feed) : (s.modFeed f g).insQ = s.insQ := rfl
@[simp] theorem State.modFeed_nextAge (s : State) (f : FeedId) (g : Feed → Feed) : (s.modFeed f g).nextAge = s.nextAge := rfl
@[simp] theorem State.modFeed_credit (s : State) (f : FeedId) (g : Feed → Feed) : (s.modFeed f g).credit = s.credit := rfl
@[simp] theorem State.modFeed_catalogue (s : State) (f : FeedId) (g : Feed → Feed) : (s.modFeed f g).catalogue = s.catalogue := rfl
@[simp] theorem State.modFeed_commands (s : State) (f : FeedId) (g : Feed → Feed) : (s.modFeed f g).commands = s.commands := rfl
@[simp] theorem State.modFeed_notices (s : State) (f : FeedId) (g : Feed → Feed) : (s.modFeed f g).notices = s.notices := rfl
@[simp] theorem State.modFeed_engine (s : State) (f : FeedId) (g : Feed → Feed) : (s.modFeed f g).engine = s.engine := rfl
@[simp] theorem State.modFeed_nextRowId (s : State) (f : FeedId) (g : Feed → Feed) : (s.modFeed f g).nextRowId = s.nextRowId := rfl
@[simp] theorem State.modFeed_memPort (s : State) (f : FeedId) (g : Feed → Feed) : (s.modFeed f g).memPort = s.memPort := rfl
@[simp] theorem State.modFeed_fabricPort (s : State) (f : FeedId) (g : Feed → Feed) : (s.modFeed f g).fabricPort = s.fabricPort := rfl

@[simp] theorem State.feed_setFeed_self (s : State) (f : FeedId) (x : Feed) : (s.setFeed f x).feed f = x := by
  simp [State.feed, State.setFeed]

@[simp] theorem State.feed_setFeed_ne (s : State) {f g : FeedId} (x : Feed) (h : g ≠ f) :
    (s.setFeed f x).feed g = s.feed g := by
  have : f.val ≠ g.val := fun e => h (Fin.ext e.symm)
  simp [State.feed, State.setFeed, this]

/-- Reading a feed after one was replaced. -/
theorem State.feed_setFeed (s : State) (f g : FeedId) (x : Feed) :
    (s.setFeed f x).feed g = if g = f then x else s.feed g := by
  by_cases h : g = f
  · subst h; simp
  · simp [h]

@[simp] theorem State.feed_modFeed_self (s : State) (f : FeedId) (k : Feed → Feed) :
    (s.modFeed f k).feed f = k (s.feed f) := by
  simp [State.modFeed]

@[simp] theorem State.feed_modFeed_ne (s : State) {f g : FeedId} (k : Feed → Feed) (h : g ≠ f) :
    (s.modFeed f k).feed g = s.feed g := by
  simp [State.modFeed, h]

/-- Reading a feed after one was changed. -/
theorem State.feed_modFeed (s : State) (f g : FeedId) (k : Feed → Feed) :
    (s.modFeed f k).feed g = if g = f then k (s.feed f) else s.feed g := by
  simp [State.modFeed, State.feed_setFeed]

/-- Two states with the same feeds give the same feed. -/
theorem State.feed_congr {s t : State} (h : t.feeds = s.feeds) (f : FeedId) : t.feed f = s.feed f := by
  simp [State.feed, h]

/-- Reading a feed after a change made to all of them. -/
@[simp] theorem State.feed_map (s : State) (g : Feed → Feed) (f : FeedId) :
    State.feed { s with feeds := s.feeds.map g } f = g (s.feed f) := by
  simp [State.feed]

/-! ### Tags, the queue of commands, notices -/

@[simp] theorem State.setTag_pending (s : State) (t : Tag) (x : TagState) : (s.setTag t x).pending = s.pending := rfl
@[simp] theorem State.setTag_straps (s : State) (t : Tag) (x : TagState) : (s.setTag t x).straps = s.straps := rfl
@[simp] theorem State.setTag_timeBase (s : State) (t : Tag) (x : TagState) : (s.setTag t x).timeBase = s.timeBase := rfl
@[simp] theorem State.setTag_forwardQ (s : State) (t : Tag) (x : TagState) : (s.setTag t x).forwardQ = s.forwardQ := rfl
@[simp] theorem State.setTag_tapQ (s : State) (t : Tag) (x : TagState) : (s.setTag t x).tapQ = s.tapQ := rfl
@[simp] theorem State.setTag_insQ (s : State) (t : Tag) (x : TagState) : (s.setTag t x).insQ = s.insQ := rfl
@[simp] theorem State.setTag_nextAge (s : State) (t : Tag) (x : TagState) : (s.setTag t x).nextAge = s.nextAge := rfl
@[simp] theorem State.setTag_credit (s : State) (t : Tag) (x : TagState) : (s.setTag t x).credit = s.credit := rfl
@[simp] theorem State.setTag_catalogue (s : State) (t : Tag) (x : TagState) : (s.setTag t x).catalogue = s.catalogue := rfl
@[simp] theorem State.setTag_commands (s : State) (t : Tag) (x : TagState) : (s.setTag t x).commands = s.commands := rfl
@[simp] theorem State.setTag_notices (s : State) (t : Tag) (x : TagState) : (s.setTag t x).notices = s.notices := rfl
@[simp] theorem State.setTag_engine (s : State) (t : Tag) (x : TagState) : (s.setTag t x).engine = s.engine := rfl
@[simp] theorem State.setTag_feeds (s : State) (t : Tag) (x : TagState) : (s.setTag t x).feeds = s.feeds := rfl
@[simp] theorem State.setTag_nextRowId (s : State) (t : Tag) (x : TagState) : (s.setTag t x).nextRowId = s.nextRowId := rfl
@[simp] theorem State.setTag_memPort (s : State) (t : Tag) (x : TagState) : (s.setTag t x).memPort = s.memPort := rfl
@[simp] theorem State.setTag_fabricPort (s : State) (t : Tag) (x : TagState) : (s.setTag t x).fabricPort = s.fabricPort := rfl

@[simp] theorem State.withPending_straps (s : State) (q : List Instr) : (s.withPending q).straps = s.straps := rfl
@[simp] theorem State.withPending_timeBase (s : State) (q : List Instr) : (s.withPending q).timeBase = s.timeBase := rfl
@[simp] theorem State.withPending_forwardQ (s : State) (q : List Instr) : (s.withPending q).forwardQ = s.forwardQ := rfl
@[simp] theorem State.withPending_tapQ (s : State) (q : List Instr) : (s.withPending q).tapQ = s.tapQ := rfl
@[simp] theorem State.withPending_tags (s : State) (q : List Instr) : (s.withPending q).tags = s.tags := rfl
@[simp] theorem State.withPending_insQ (s : State) (q : List Instr) : (s.withPending q).insQ = s.insQ := rfl
@[simp] theorem State.withPending_nextAge (s : State) (q : List Instr) : (s.withPending q).nextAge = s.nextAge := rfl
@[simp] theorem State.withPending_credit (s : State) (q : List Instr) : (s.withPending q).credit = s.credit := rfl
@[simp] theorem State.withPending_catalogue (s : State) (q : List Instr) : (s.withPending q).catalogue = s.catalogue := rfl
@[simp] theorem State.withPending_commands (s : State) (q : List Instr) : (s.withPending q).commands = s.commands := rfl
@[simp] theorem State.withPending_notices (s : State) (q : List Instr) : (s.withPending q).notices = s.notices := rfl
@[simp] theorem State.withPending_engine (s : State) (q : List Instr) : (s.withPending q).engine = s.engine := rfl
@[simp] theorem State.withPending_feeds (s : State) (q : List Instr) : (s.withPending q).feeds = s.feeds := rfl
@[simp] theorem State.withPending_nextRowId (s : State) (q : List Instr) : (s.withPending q).nextRowId = s.nextRowId := rfl
@[simp] theorem State.withPending_memPort (s : State) (q : List Instr) : (s.withPending q).memPort = s.memPort := rfl
@[simp] theorem State.withPending_fabricPort (s : State) (q : List Instr) : (s.withPending q).fabricPort = s.fabricPort := rfl

@[simp] theorem popHead_pending (s : State) : (popHead s).pending = s.pending := rfl
@[simp] theorem popHead_straps (s : State) : (popHead s).straps = s.straps := rfl
@[simp] theorem popHead_timeBase (s : State) : (popHead s).timeBase = s.timeBase := rfl
@[simp] theorem popHead_forwardQ (s : State) : (popHead s).forwardQ = s.forwardQ := rfl
@[simp] theorem popHead_tapQ (s : State) : (popHead s).tapQ = s.tapQ := rfl
@[simp] theorem popHead_tags (s : State) : (popHead s).tags = s.tags := rfl
@[simp] theorem popHead_insQ (s : State) : (popHead s).insQ = s.insQ := rfl
@[simp] theorem popHead_nextAge (s : State) : (popHead s).nextAge = s.nextAge := rfl
@[simp] theorem popHead_credit (s : State) : (popHead s).credit = s.credit := rfl
@[simp] theorem popHead_catalogue (s : State) : (popHead s).catalogue = s.catalogue := rfl
@[simp] theorem popHead_notices (s : State) : (popHead s).notices = s.notices := rfl
@[simp] theorem popHead_engine (s : State) : (popHead s).engine = s.engine := rfl
@[simp] theorem popHead_feeds (s : State) : (popHead s).feeds = s.feeds := rfl
@[simp] theorem popHead_nextRowId (s : State) : (popHead s).nextRowId = s.nextRowId := rfl
@[simp] theorem popHead_memPort (s : State) : (popHead s).memPort = s.memPort := rfl
@[simp] theorem popHead_fabricPort (s : State) : (popHead s).fabricPort = s.fabricPort := rfl

@[simp] theorem State.setTag_self (s : State) (t : Tag) (x : TagState) : (s.setTag t x).tags[t] = x := by
  simp [State.setTag]

@[simp] theorem State.setTag_ne (s : State) {t u : Tag} (x : TagState) (h : u ≠ t) :
    (s.setTag t x).tags[u] = s.tags[u] := by
  have : t.val ≠ u.val := fun e => h (Fin.ext e.symm)
  simp [State.setTag, this]

/-! ### Insertion entries and words -/

@[simp] theorem withdraw_pending (p : InsEntry → Bool) (s : State) : (withdraw p s).pending = s.pending := rfl
@[simp] theorem withdraw_straps (p : InsEntry → Bool) (s : State) : (withdraw p s).straps = s.straps := rfl
@[simp] theorem withdraw_timeBase (p : InsEntry → Bool) (s : State) : (withdraw p s).timeBase = s.timeBase := rfl
@[simp] theorem withdraw_forwardQ (p : InsEntry → Bool) (s : State) : (withdraw p s).forwardQ = s.forwardQ := rfl
@[simp] theorem withdraw_tapQ (p : InsEntry → Bool) (s : State) : (withdraw p s).tapQ = s.tapQ := rfl
@[simp] theorem withdraw_nextAge (p : InsEntry → Bool) (s : State) : (withdraw p s).nextAge = s.nextAge := rfl
@[simp] theorem withdraw_credit (p : InsEntry → Bool) (s : State) : (withdraw p s).credit = s.credit := rfl
@[simp] theorem withdraw_catalogue (p : InsEntry → Bool) (s : State) : (withdraw p s).catalogue = s.catalogue := rfl
@[simp] theorem withdraw_commands (p : InsEntry → Bool) (s : State) : (withdraw p s).commands = s.commands := rfl
@[simp] theorem withdraw_notices (p : InsEntry → Bool) (s : State) : (withdraw p s).notices = s.notices := rfl
@[simp] theorem withdraw_engine (p : InsEntry → Bool) (s : State) : (withdraw p s).engine = s.engine := rfl
@[simp] theorem withdraw_feeds (p : InsEntry → Bool) (s : State) : (withdraw p s).feeds = s.feeds := rfl
@[simp] theorem withdraw_nextRowId (p : InsEntry → Bool) (s : State) : (withdraw p s).nextRowId = s.nextRowId := rfl
@[simp] theorem withdraw_memPort (p : InsEntry → Bool) (s : State) : (withdraw p s).memPort = s.memPort := rfl
@[simp] theorem withdraw_fabricPort (p : InsEntry → Bool) (s : State) : (withdraw p s).fabricPort = s.fabricPort := rfl

@[simp] theorem makeEntry_pending (d : EntryDraft) (s : State) : (makeEntry d s).pending = s.pending := by
  unfold makeEntry; split <;> rfl
@[simp] theorem makeEntry_straps (d : EntryDraft) (s : State) : (makeEntry d s).straps = s.straps := by
  unfold makeEntry; split <;> rfl
@[simp] theorem makeEntry_timeBase (d : EntryDraft) (s : State) : (makeEntry d s).timeBase = s.timeBase := by
  unfold makeEntry; split <;> rfl
@[simp] theorem makeEntry_forwardQ (d : EntryDraft) (s : State) : (makeEntry d s).forwardQ = s.forwardQ := by
  unfold makeEntry; split <;> rfl
@[simp] theorem makeEntry_tapQ (d : EntryDraft) (s : State) : (makeEntry d s).tapQ = s.tapQ := by
  unfold makeEntry; split <;> rfl
@[simp] theorem makeEntry_tags (d : EntryDraft) (s : State) : (makeEntry d s).tags = s.tags := by
  unfold makeEntry; split <;> rfl
@[simp] theorem makeEntry_credit (d : EntryDraft) (s : State) : (makeEntry d s).credit = s.credit := by
  unfold makeEntry; split <;> rfl
@[simp] theorem makeEntry_catalogue (d : EntryDraft) (s : State) : (makeEntry d s).catalogue = s.catalogue := by
  unfold makeEntry; split <;> rfl
@[simp] theorem makeEntry_commands (d : EntryDraft) (s : State) : (makeEntry d s).commands = s.commands := by
  unfold makeEntry; split <;> rfl
@[simp] theorem makeEntry_notices (d : EntryDraft) (s : State) : (makeEntry d s).notices = s.notices := by
  unfold makeEntry; split <;> rfl
@[simp] theorem makeEntry_engine (d : EntryDraft) (s : State) : (makeEntry d s).engine = s.engine := by
  unfold makeEntry; split <;> rfl
@[simp] theorem makeEntry_feeds (d : EntryDraft) (s : State) : (makeEntry d s).feeds = s.feeds := by
  unfold makeEntry; split <;> rfl
@[simp] theorem makeEntry_nextRowId (d : EntryDraft) (s : State) : (makeEntry d s).nextRowId = s.nextRowId := by
  unfold makeEntry; split <;> rfl
@[simp] theorem makeEntry_memPort (d : EntryDraft) (s : State) : (makeEntry d s).memPort = s.memPort := by
  unfold makeEntry; split <;> rfl
@[simp] theorem makeEntry_fabricPort (d : EntryDraft) (s : State) : (makeEntry d s).fabricPort = s.fabricPort := by
  unfold makeEntry; split <;> rfl

@[simp] theorem makeNoticeEntry_pending (s : State) : (makeNoticeEntry s).pending = s.pending := by
  unfold makeNoticeEntry; repeat' split
  all_goals simp
@[simp] theorem makeNoticeEntry_straps (s : State) : (makeNoticeEntry s).straps = s.straps := by
  unfold makeNoticeEntry; repeat' split
  all_goals simp
@[simp] theorem makeNoticeEntry_timeBase (s : State) : (makeNoticeEntry s).timeBase = s.timeBase := by
  unfold makeNoticeEntry; repeat' split
  all_goals simp
@[simp] theorem makeNoticeEntry_forwardQ (s : State) : (makeNoticeEntry s).forwardQ = s.forwardQ := by
  unfold makeNoticeEntry; repeat' split
  all_goals simp
@[simp] theorem makeNoticeEntry_tapQ (s : State) : (makeNoticeEntry s).tapQ = s.tapQ := by
  unfold makeNoticeEntry; repeat' split
  all_goals simp
@[simp] theorem makeNoticeEntry_tags (s : State) : (makeNoticeEntry s).tags = s.tags := by
  unfold makeNoticeEntry; repeat' split
  all_goals simp
@[simp] theorem makeNoticeEntry_credit (s : State) : (makeNoticeEntry s).credit = s.credit := by
  unfold makeNoticeEntry; repeat' split
  all_goals simp
@[simp] theorem makeNoticeEntry_catalogue (s : State) : (makeNoticeEntry s).catalogue = s.catalogue := by
  unfold makeNoticeEntry; repeat' split
  all_goals simp
@[simp] theorem makeNoticeEntry_commands (s : State) : (makeNoticeEntry s).commands = s.commands := by
  unfold makeNoticeEntry; repeat' split
  all_goals simp
@[simp] theorem makeNoticeEntry_notices (s : State) : (makeNoticeEntry s).notices = s.notices := by
  unfold makeNoticeEntry; repeat' split
  all_goals simp
@[simp] theorem makeNoticeEntry_engine (s : State) : (makeNoticeEntry s).engine = s.engine := by
  unfold makeNoticeEntry; repeat' split
  all_goals simp
@[simp] theorem makeNoticeEntry_feeds (s : State) : (makeNoticeEntry s).feeds = s.feeds := by
  unfold makeNoticeEntry; repeat' split
  all_goals simp
@[simp] theorem makeNoticeEntry_nextRowId (s : State) : (makeNoticeEntry s).nextRowId = s.nextRowId := by
  unfold makeNoticeEntry; repeat' split
  all_goals simp
@[simp] theorem makeNoticeEntry_memPort (s : State) : (makeNoticeEntry s).memPort = s.memPort := by
  unfold makeNoticeEntry; repeat' split
  all_goals simp
@[simp] theorem makeNoticeEntry_fabricPort (s : State) : (makeNoticeEntry s).fabricPort = s.fabricPort := by
  unfold makeNoticeEntry; repeat' split
  all_goals simp

@[simp] theorem stageNotice_pending (b : NoticeBody) (s : State) : (stageNotice b s).pending = s.pending := by
  simp [stageNotice, appendNotice]
@[simp] theorem stageNotice_straps (b : NoticeBody) (s : State) : (stageNotice b s).straps = s.straps := by
  simp [stageNotice, appendNotice]
@[simp] theorem stageNotice_timeBase (b : NoticeBody) (s : State) : (stageNotice b s).timeBase = s.timeBase := by
  simp [stageNotice, appendNotice]
@[simp] theorem stageNotice_forwardQ (b : NoticeBody) (s : State) : (stageNotice b s).forwardQ = s.forwardQ := by
  simp [stageNotice, appendNotice]
@[simp] theorem stageNotice_tapQ (b : NoticeBody) (s : State) : (stageNotice b s).tapQ = s.tapQ := by
  simp [stageNotice, appendNotice]
@[simp] theorem stageNotice_tags (b : NoticeBody) (s : State) : (stageNotice b s).tags = s.tags := by
  simp [stageNotice, appendNotice]
@[simp] theorem stageNotice_credit (b : NoticeBody) (s : State) : (stageNotice b s).credit = s.credit := by
  simp [stageNotice, appendNotice]
@[simp] theorem stageNotice_catalogue (b : NoticeBody) (s : State) : (stageNotice b s).catalogue = s.catalogue := by
  simp [stageNotice, appendNotice]
@[simp] theorem stageNotice_commands (b : NoticeBody) (s : State) : (stageNotice b s).commands = s.commands := by
  simp [stageNotice, appendNotice]
@[simp] theorem stageNotice_engine (b : NoticeBody) (s : State) : (stageNotice b s).engine = s.engine := by
  simp [stageNotice, appendNotice]
@[simp] theorem stageNotice_feeds (b : NoticeBody) (s : State) : (stageNotice b s).feeds = s.feeds := by
  simp [stageNotice, appendNotice]
@[simp] theorem stageNotice_nextRowId (b : NoticeBody) (s : State) : (stageNotice b s).nextRowId = s.nextRowId := by
  simp [stageNotice, appendNotice]
@[simp] theorem stageNotice_memPort (b : NoticeBody) (s : State) : (stageNotice b s).memPort = s.memPort := by
  simp [stageNotice, appendNotice]
@[simp] theorem stageNotice_fabricPort (b : NoticeBody) (s : State) : (stageNotice b s).fabricPort = s.fabricPort := by
  simp [stageNotice, appendNotice]

@[simp] theorem stageEvent_pending (b : NoticeBody) (s : State) : (stageEvent b s).pending = s.pending := by
  unfold stageEvent; split <;> simp
@[simp] theorem stageEvent_straps (b : NoticeBody) (s : State) : (stageEvent b s).straps = s.straps := by
  unfold stageEvent; split <;> simp
@[simp] theorem stageEvent_timeBase (b : NoticeBody) (s : State) : (stageEvent b s).timeBase = s.timeBase := by
  unfold stageEvent; split <;> simp
@[simp] theorem stageEvent_forwardQ (b : NoticeBody) (s : State) : (stageEvent b s).forwardQ = s.forwardQ := by
  unfold stageEvent; split <;> simp
@[simp] theorem stageEvent_tapQ (b : NoticeBody) (s : State) : (stageEvent b s).tapQ = s.tapQ := by
  unfold stageEvent; split <;> simp
@[simp] theorem stageEvent_tags (b : NoticeBody) (s : State) : (stageEvent b s).tags = s.tags := by
  unfold stageEvent; split <;> simp
@[simp] theorem stageEvent_credit (b : NoticeBody) (s : State) : (stageEvent b s).credit = s.credit := by
  unfold stageEvent; split <;> simp
@[simp] theorem stageEvent_catalogue (b : NoticeBody) (s : State) : (stageEvent b s).catalogue = s.catalogue := by
  unfold stageEvent; split <;> simp
@[simp] theorem stageEvent_commands (b : NoticeBody) (s : State) : (stageEvent b s).commands = s.commands := by
  unfold stageEvent; split <;> simp
@[simp] theorem stageEvent_engine (b : NoticeBody) (s : State) : (stageEvent b s).engine = s.engine := by
  unfold stageEvent; split <;> simp
@[simp] theorem stageEvent_feeds (b : NoticeBody) (s : State) : (stageEvent b s).feeds = s.feeds := by
  unfold stageEvent; split <;> simp
@[simp] theorem stageEvent_nextRowId (b : NoticeBody) (s : State) : (stageEvent b s).nextRowId = s.nextRowId := by
  unfold stageEvent; split <;> simp
@[simp] theorem stageEvent_memPort (b : NoticeBody) (s : State) : (stageEvent b s).memPort = s.memPort := by
  unfold stageEvent; split <;> simp
@[simp] theorem stageEvent_fabricPort (b : NoticeBody) (s : State) : (stageEvent b s).fabricPort = s.fabricPort := by
  unfold stageEvent; split <;> simp

@[simp] theorem complete_pending (c : Command) (r : CommandResult) (d : Nat) (s : State) : (complete c r d s).pending = s.pending := by
  simp [complete]
@[simp] theorem complete_straps (c : Command) (r : CommandResult) (d : Nat) (s : State) : (complete c r d s).straps = s.straps := by
  simp [complete]
@[simp] theorem complete_timeBase (c : Command) (r : CommandResult) (d : Nat) (s : State) : (complete c r d s).timeBase = s.timeBase := by
  simp [complete]
@[simp] theorem complete_forwardQ (c : Command) (r : CommandResult) (d : Nat) (s : State) : (complete c r d s).forwardQ = s.forwardQ := by
  simp [complete]
@[simp] theorem complete_tapQ (c : Command) (r : CommandResult) (d : Nat) (s : State) : (complete c r d s).tapQ = s.tapQ := by
  simp [complete]
@[simp] theorem complete_tags (c : Command) (r : CommandResult) (d : Nat) (s : State) : (complete c r d s).tags = s.tags := by
  simp [complete]
@[simp] theorem complete_credit (c : Command) (r : CommandResult) (d : Nat) (s : State) : (complete c r d s).credit = s.credit := by
  simp [complete]
@[simp] theorem complete_catalogue (c : Command) (r : CommandResult) (d : Nat) (s : State) : (complete c r d s).catalogue = s.catalogue := by
  simp [complete]
@[simp] theorem complete_engine (c : Command) (r : CommandResult) (d : Nat) (s : State) : (complete c r d s).engine = s.engine := by
  simp [complete]
@[simp] theorem complete_feeds (c : Command) (r : CommandResult) (d : Nat) (s : State) : (complete c r d s).feeds = s.feeds := by
  simp [complete]
@[simp] theorem complete_nextRowId (c : Command) (r : CommandResult) (d : Nat) (s : State) : (complete c r d s).nextRowId = s.nextRowId := by
  simp [complete]
@[simp] theorem complete_memPort (c : Command) (r : CommandResult) (d : Nat) (s : State) : (complete c r d s).memPort = s.memPort := by
  simp [complete]
@[simp] theorem complete_fabricPort (c : Command) (r : CommandResult) (d : Nat) (s : State) : (complete c r d s).fabricPort = s.fabricPort := by
  simp [complete]

@[simp] theorem replaceWord_pending (w : WordId) (s : State) : (replaceWord w s).pending = s.pending := rfl
@[simp] theorem replaceWord_straps (w : WordId) (s : State) : (replaceWord w s).straps = s.straps := rfl
@[simp] theorem replaceWord_timeBase (w : WordId) (s : State) : (replaceWord w s).timeBase = s.timeBase := rfl
@[simp] theorem replaceWord_forwardQ (w : WordId) (s : State) : (replaceWord w s).forwardQ = s.forwardQ := rfl
@[simp] theorem replaceWord_tapQ (w : WordId) (s : State) : (replaceWord w s).tapQ = s.tapQ := rfl
@[simp] theorem replaceWord_tags (w : WordId) (s : State) : (replaceWord w s).tags = s.tags := rfl
@[simp] theorem replaceWord_nextAge (w : WordId) (s : State) : (replaceWord w s).nextAge = s.nextAge := rfl
@[simp] theorem replaceWord_credit (w : WordId) (s : State) : (replaceWord w s).credit = s.credit := rfl
@[simp] theorem replaceWord_catalogue (w : WordId) (s : State) : (replaceWord w s).catalogue = s.catalogue := rfl
@[simp] theorem replaceWord_commands (w : WordId) (s : State) : (replaceWord w s).commands = s.commands := rfl
@[simp] theorem replaceWord_notices (w : WordId) (s : State) : (replaceWord w s).notices = s.notices := rfl
@[simp] theorem replaceWord_engine (w : WordId) (s : State) : (replaceWord w s).engine = s.engine := rfl
@[simp] theorem replaceWord_feeds (w : WordId) (s : State) : (replaceWord w s).feeds = s.feeds := rfl
@[simp] theorem replaceWord_nextRowId (w : WordId) (s : State) : (replaceWord w s).nextRowId = s.nextRowId := rfl
@[simp] theorem replaceWord_memPort (w : WordId) (s : State) : (replaceWord w s).memPort = s.memPort := rfl
@[simp] theorem replaceWord_fabricPort (w : WordId) (s : State) : (replaceWord w s).fabricPort = s.fabricPort := rfl

@[simp] theorem setWord_pending (w : WordId) (x : WordState) (s : State) : (setWord w x s).pending = s.pending := by
  cases w <;> rfl
@[simp] theorem setWord_straps (w : WordId) (x : WordState) (s : State) : (setWord w x s).straps = s.straps := by
  cases w <;> rfl
@[simp] theorem setWord_timeBase (w : WordId) (x : WordState) (s : State) : (setWord w x s).timeBase = s.timeBase := by
  cases w <;> rfl
@[simp] theorem setWord_forwardQ (w : WordId) (x : WordState) (s : State) : (setWord w x s).forwardQ = s.forwardQ := by
  cases w <;> rfl
@[simp] theorem setWord_tapQ (w : WordId) (x : WordState) (s : State) : (setWord w x s).tapQ = s.tapQ := by
  cases w <;> rfl
@[simp] theorem setWord_tags (w : WordId) (x : WordState) (s : State) : (setWord w x s).tags = s.tags := by
  cases w <;> rfl
@[simp] theorem setWord_insQ (w : WordId) (x : WordState) (s : State) : (setWord w x s).insQ = s.insQ := by
  cases w <;> rfl
@[simp] theorem setWord_nextAge (w : WordId) (x : WordState) (s : State) : (setWord w x s).nextAge = s.nextAge := by
  cases w <;> rfl
@[simp] theorem setWord_credit (w : WordId) (x : WordState) (s : State) : (setWord w x s).credit = s.credit := by
  cases w <;> rfl
@[simp] theorem setWord_commands (w : WordId) (x : WordState) (s : State) : (setWord w x s).commands = s.commands := by
  cases w <;> rfl
@[simp] theorem setWord_engine (w : WordId) (x : WordState) (s : State) : (setWord w x s).engine = s.engine := by
  cases w <;> rfl
@[simp] theorem setWord_nextRowId (w : WordId) (x : WordState) (s : State) : (setWord w x s).nextRowId = s.nextRowId := by
  cases w <;> rfl
@[simp] theorem setWord_memPort (w : WordId) (x : WordState) (s : State) : (setWord w x s).memPort = s.memPort := by
  cases w <;> rfl
@[simp] theorem setWord_fabricPort (w : WordId) (x : WordState) (s : State) : (setWord w x s).fabricPort = s.fabricPort := by
  cases w <;> rfl

@[simp] theorem queueWord_pending (w : WordId) (s : State) : (queueWord w s).pending = s.pending := by
  simp [queueWord]
@[simp] theorem queueWord_straps (w : WordId) (s : State) : (queueWord w s).straps = s.straps := by
  simp [queueWord]
@[simp] theorem queueWord_timeBase (w : WordId) (s : State) : (queueWord w s).timeBase = s.timeBase := by
  simp [queueWord]
@[simp] theorem queueWord_forwardQ (w : WordId) (s : State) : (queueWord w s).forwardQ = s.forwardQ := by
  simp [queueWord]
@[simp] theorem queueWord_tapQ (w : WordId) (s : State) : (queueWord w s).tapQ = s.tapQ := by
  simp [queueWord]
@[simp] theorem queueWord_tags (w : WordId) (s : State) : (queueWord w s).tags = s.tags := by
  simp [queueWord]
@[simp] theorem queueWord_credit (w : WordId) (s : State) : (queueWord w s).credit = s.credit := by
  simp [queueWord]
@[simp] theorem queueWord_commands (w : WordId) (s : State) : (queueWord w s).commands = s.commands := by
  simp [queueWord]
@[simp] theorem queueWord_engine (w : WordId) (s : State) : (queueWord w s).engine = s.engine := by
  simp [queueWord]
@[simp] theorem queueWord_nextRowId (w : WordId) (s : State) : (queueWord w s).nextRowId = s.nextRowId := by
  simp [queueWord]
@[simp] theorem queueWord_memPort (w : WordId) (s : State) : (queueWord w s).memPort = s.memPort := by
  simp [queueWord]
@[simp] theorem queueWord_fabricPort (w : WordId) (s : State) : (queueWord w s).fabricPort = s.fabricPort := by
  simp [queueWord]

@[simp] theorem updateWord_pending (w : WordId) (s : State) : (updateWord w s).pending = s.pending := by
  unfold updateWord; split <;> simp
@[simp] theorem updateWord_straps (w : WordId) (s : State) : (updateWord w s).straps = s.straps := by
  unfold updateWord; split <;> simp
@[simp] theorem updateWord_timeBase (w : WordId) (s : State) : (updateWord w s).timeBase = s.timeBase := by
  unfold updateWord; split <;> simp
@[simp] theorem updateWord_forwardQ (w : WordId) (s : State) : (updateWord w s).forwardQ = s.forwardQ := by
  unfold updateWord; split <;> simp
@[simp] theorem updateWord_tapQ (w : WordId) (s : State) : (updateWord w s).tapQ = s.tapQ := by
  unfold updateWord; split <;> simp
@[simp] theorem updateWord_tags (w : WordId) (s : State) : (updateWord w s).tags = s.tags := by
  unfold updateWord; split <;> simp
@[simp] theorem updateWord_credit (w : WordId) (s : State) : (updateWord w s).credit = s.credit := by
  unfold updateWord; split <;> simp
@[simp] theorem updateWord_commands (w : WordId) (s : State) : (updateWord w s).commands = s.commands := by
  unfold updateWord; split <;> simp
@[simp] theorem updateWord_engine (w : WordId) (s : State) : (updateWord w s).engine = s.engine := by
  unfold updateWord; split <;> simp
@[simp] theorem updateWord_nextRowId (w : WordId) (s : State) : (updateWord w s).nextRowId = s.nextRowId := by
  unfold updateWord; split <;> simp
@[simp] theorem updateWord_memPort (w : WordId) (s : State) : (updateWord w s).memPort = s.memPort := by
  unfold updateWord; split <;> simp
@[simp] theorem updateWord_fabricPort (w : WordId) (s : State) : (updateWord w s).fabricPort = s.fabricPort := by
  unfold updateWord; split <;> simp

@[simp] theorem wordAnswered_pending (w : WordId) (v : Count) (s : State) : (wordAnswered w v s).pending = s.pending := by
  unfold wordAnswered; split <;> simp
@[simp] theorem wordAnswered_straps (w : WordId) (v : Count) (s : State) : (wordAnswered w v s).straps = s.straps := by
  unfold wordAnswered; split <;> simp
@[simp] theorem wordAnswered_timeBase (w : WordId) (v : Count) (s : State) : (wordAnswered w v s).timeBase = s.timeBase := by
  unfold wordAnswered; split <;> simp
@[simp] theorem wordAnswered_forwardQ (w : WordId) (v : Count) (s : State) : (wordAnswered w v s).forwardQ = s.forwardQ := by
  unfold wordAnswered; split <;> simp
@[simp] theorem wordAnswered_tapQ (w : WordId) (v : Count) (s : State) : (wordAnswered w v s).tapQ = s.tapQ := by
  unfold wordAnswered; split <;> simp
@[simp] theorem wordAnswered_tags (w : WordId) (v : Count) (s : State) : (wordAnswered w v s).tags = s.tags := by
  unfold wordAnswered; split <;> simp
@[simp] theorem wordAnswered_credit (w : WordId) (v : Count) (s : State) : (wordAnswered w v s).credit = s.credit := by
  unfold wordAnswered; split <;> simp
@[simp] theorem wordAnswered_commands (w : WordId) (v : Count) (s : State) : (wordAnswered w v s).commands = s.commands := by
  unfold wordAnswered; split <;> simp
@[simp] theorem wordAnswered_engine (w : WordId) (v : Count) (s : State) : (wordAnswered w v s).engine = s.engine := by
  unfold wordAnswered; split <;> simp
@[simp] theorem wordAnswered_nextRowId (w : WordId) (v : Count) (s : State) : (wordAnswered w v s).nextRowId = s.nextRowId := by
  unfold wordAnswered; split <;> simp
@[simp] theorem wordAnswered_memPort (w : WordId) (v : Count) (s : State) : (wordAnswered w v s).memPort = s.memPort := by
  unfold wordAnswered; split <;> simp
@[simp] theorem wordAnswered_fabricPort (w : WordId) (v : Count) (s : State) : (wordAnswered w v s).fabricPort = s.fabricPort := by
  unfold wordAnswered; split <;> simp

@[simp] theorem startBatch_pending (s : State) : (startBatch s).pending = s.pending := by
  unfold startBatch makeBatch; dsimp only; repeat' split
  all_goals simp
@[simp] theorem startBatch_straps (s : State) : (startBatch s).straps = s.straps := by
  unfold startBatch makeBatch; dsimp only; repeat' split
  all_goals simp
@[simp] theorem startBatch_timeBase (s : State) : (startBatch s).timeBase = s.timeBase := by
  unfold startBatch makeBatch; dsimp only; repeat' split
  all_goals simp
@[simp] theorem startBatch_forwardQ (s : State) : (startBatch s).forwardQ = s.forwardQ := by
  unfold startBatch makeBatch; dsimp only; repeat' split
  all_goals simp
@[simp] theorem startBatch_tapQ (s : State) : (startBatch s).tapQ = s.tapQ := by
  unfold startBatch makeBatch; dsimp only; repeat' split
  all_goals simp
@[simp] theorem startBatch_tags (s : State) : (startBatch s).tags = s.tags := by
  unfold startBatch makeBatch; dsimp only; repeat' split
  all_goals simp
@[simp] theorem startBatch_credit (s : State) : (startBatch s).credit = s.credit := by
  unfold startBatch makeBatch; dsimp only; repeat' split
  all_goals simp
@[simp] theorem startBatch_commands (s : State) : (startBatch s).commands = s.commands := by
  unfold startBatch makeBatch; dsimp only; repeat' split
  all_goals simp
@[simp] theorem startBatch_notices (s : State) : (startBatch s).notices = s.notices := by
  unfold startBatch makeBatch; dsimp only; repeat' split
  all_goals simp
@[simp] theorem startBatch_engine (s : State) : (startBatch s).engine = s.engine := by
  unfold startBatch makeBatch; dsimp only; repeat' split
  all_goals simp
@[simp] theorem startBatch_feeds (s : State) : (startBatch s).feeds = s.feeds := by
  unfold startBatch makeBatch; dsimp only; repeat' split
  all_goals simp
@[simp] theorem startBatch_nextRowId (s : State) : (startBatch s).nextRowId = s.nextRowId := by
  unfold startBatch makeBatch; dsimp only; repeat' split
  all_goals simp
@[simp] theorem startBatch_memPort (s : State) : (startBatch s).memPort = s.memPort := by
  unfold startBatch makeBatch; dsimp only; repeat' split
  all_goals simp
@[simp] theorem startBatch_fabricPort (s : State) : (startBatch s).fabricPort = s.fabricPort := by
  unfold startBatch makeBatch; dsimp only; repeat' split
  all_goals simp

@[simp] theorem stageIndex_pending (r : IndexRecord) (s : State) : (stageIndex r s).pending = s.pending := by
  unfold stageIndex; split <;> simp [appendIndex]
@[simp] theorem stageIndex_straps (r : IndexRecord) (s : State) : (stageIndex r s).straps = s.straps := by
  unfold stageIndex; split <;> simp [appendIndex]
@[simp] theorem stageIndex_timeBase (r : IndexRecord) (s : State) : (stageIndex r s).timeBase = s.timeBase := by
  unfold stageIndex; split <;> simp [appendIndex]
@[simp] theorem stageIndex_forwardQ (r : IndexRecord) (s : State) : (stageIndex r s).forwardQ = s.forwardQ := by
  unfold stageIndex; split <;> simp [appendIndex]
@[simp] theorem stageIndex_tapQ (r : IndexRecord) (s : State) : (stageIndex r s).tapQ = s.tapQ := by
  unfold stageIndex; split <;> simp [appendIndex]
@[simp] theorem stageIndex_tags (r : IndexRecord) (s : State) : (stageIndex r s).tags = s.tags := by
  unfold stageIndex; split <;> simp [appendIndex]
@[simp] theorem stageIndex_credit (r : IndexRecord) (s : State) : (stageIndex r s).credit = s.credit := by
  unfold stageIndex; split <;> simp [appendIndex]
@[simp] theorem stageIndex_commands (r : IndexRecord) (s : State) : (stageIndex r s).commands = s.commands := by
  unfold stageIndex; split <;> simp [appendIndex]
@[simp] theorem stageIndex_notices (r : IndexRecord) (s : State) : (stageIndex r s).notices = s.notices := by
  unfold stageIndex; split <;> simp [appendIndex]
@[simp] theorem stageIndex_engine (r : IndexRecord) (s : State) : (stageIndex r s).engine = s.engine := by
  unfold stageIndex; split <;> simp [appendIndex]
@[simp] theorem stageIndex_feeds (r : IndexRecord) (s : State) : (stageIndex r s).feeds = s.feeds := by
  unfold stageIndex; split <;> simp [appendIndex]
@[simp] theorem stageIndex_nextRowId (r : IndexRecord) (s : State) : (stageIndex r s).nextRowId = s.nextRowId := by
  unfold stageIndex; split <;> simp [appendIndex]
@[simp] theorem stageIndex_memPort (r : IndexRecord) (s : State) : (stageIndex r s).memPort = s.memPort := by
  unfold stageIndex; split <;> simp [appendIndex]
@[simp] theorem stageIndex_fabricPort (r : IndexRecord) (s : State) : (stageIndex r s).fabricPort = s.fabricPort := by
  unfold stageIndex; split <;> simp [appendIndex]

/-! ### Feeds after the operations that touch none, or only a word -/

@[simp] theorem State.setTag_feed (s : State) (t : Tag) (x : TagState) (f : FeedId) : (s.setTag t x).feed f = s.feed f :=
  State.feed_congr (by simp) f

@[simp] theorem State.withPending_feed (s : State) (q : List Instr) (f : FeedId) : (s.withPending q).feed f = s.feed f :=
  State.feed_congr (by simp) f

@[simp] theorem makeNoticeEntry_feed (s : State) (f : FeedId) : (makeNoticeEntry s).feed f = s.feed f :=
  State.feed_congr (by simp) f

@[simp] theorem stageNotice_feed (b : NoticeBody) (s : State) (f : FeedId) : (stageNotice b s).feed f = s.feed f :=
  State.feed_congr (by simp) f

@[simp] theorem stageEvent_feed (b : NoticeBody) (s : State) (f : FeedId) : (stageEvent b s).feed f = s.feed f :=
  State.feed_congr (by simp) f

@[simp] theorem popHead_feed (s : State) (f : FeedId) : (popHead s).feed f = s.feed f :=
  State.feed_congr (by simp) f

@[simp] theorem complete_feed (c : Command) (r : CommandResult) (d : Nat) (s : State) (f : FeedId) : (complete c r d s).feed f = s.feed f :=
  State.feed_congr (by simp) f

@[simp] theorem withdraw_feed (p : InsEntry → Bool) (s : State) (f : FeedId) : (withdraw p s).feed f = s.feed f :=
  State.feed_congr (by simp) f

@[simp] theorem makeEntry_feed (d : EntryDraft) (s : State) (f : FeedId) : (makeEntry d s).feed f = s.feed f :=
  State.feed_congr (by simp) f

@[simp] theorem replaceWord_feed (w : WordId) (s : State) (f : FeedId) : (replaceWord w s).feed f = s.feed f :=
  State.feed_congr (by simp) f

@[simp] theorem startBatch_feed (s : State) (f : FeedId) : (startBatch s).feed f = s.feed f :=
  State.feed_congr (by simp) f

@[simp] theorem stageIndex_feed (r : IndexRecord) (s : State) (f : FeedId) : (stageIndex r s).feed f = s.feed f :=
  State.feed_congr (by simp) f

@[simp] theorem setWord_publish_self (f : FeedId) (x : WordState) (s : State) :
    (setWord (.publish f) x s).feed f
      = { s.feed f with publisher := { (s.feed f).publisher with word := x } } := by
  simp [setWord]

/-- Setting a word changes nothing of a feed but its publish-word state. -/
theorem setWord_feed (w : WordId) (x : WordState) (s : State) (g : FeedId) :
    (setWord w x s).feed g = s.feed g ∨
      (setWord w x s).feed g = { s.feed g with publisher := { (s.feed g).publisher with word := x } } := by
  cases w with
  | publish f =>
    by_cases h : g = f
    · subst h; right; simp
    · left; simp [setWord, h]
  | catalogue => left; rfl
  | notice => left; rfl

end Sys2Proof.Machine
end

