-- ==== Sys2Proof/Laws/Ops.lean ====
section
/-! SUPPORT. One lemma for each shared operation that says what it answers, so that a proof about a command cites it
and unfolds nothing. -/

namespace Sys2Proof.Machine

/-! ### Counts, ranges and tags -/

/-- The window test of a consumer or release value. -/
theorem countTaken_iff (v old limit : Count) :
    countTaken v old limit = true ↔ 0 < (v - old).toNat ∧ (v - old).toNat ≤ (limit - old).toNat := by
  rw [countTaken, Bool.and_eq_true, decide_eq_true_eq, decide_eq_true_eq]

/-- Two ranges share a byte exactly when some address lies in both. -/
theorem rangesShare_iff (a la b lb : Nat) : rangesShare a la b lb = true ↔ rangesMeet a la b lb := by
  simp only [rangesShare, Bool.and_eq_true, decide_eq_true_eq]
  constructor
  · rintro ⟨⟨⟨h1, h2⟩, h3⟩, h4⟩
    exact ⟨max a b, by omega, by omega, by omega, by omega⟩
  · rintro ⟨x, h⟩; omega

/-- The first FREE tag is the lowest-numbered one. -/
theorem lowestFree_of_lowestTag {s : State} {t : Tag} (h : s.lowestTag t) : lowestFree s.tags = some t := by
  rw [lowestFree]
  cases e : (List.finRange 128).find? fun u => decide (s.tags[u] = .free) with
  | none => exact absurd h.1 (by simpa using List.find?_eq_none.mp e t (List.mem_finRange t))
  | some u =>
    obtain ⟨hu, pre, post, hl, hp⟩ := List.find?_eq_some_iff_append.mp e
    have hsort : (List.finRange 128).Pairwise (· < ·) := List.pairwise_lt_finRange 128
    rw [hl] at hsort
    rcases Nat.lt_trichotomy u.val t.val with c | c | c
    · exact absurd (by simpa using hu) (h.2 u c)
    · rw [Fin.ext c]
    · have hm : t ∈ pre ++ u :: post := hl ▸ List.mem_finRange t
      rcases List.mem_append.mp hm with m | m
      · exact absurd h.1 (by simpa using hp t m)
      · rcases List.mem_cons.mp m with m | m
        · rw [m]
        · have := (List.pairwise_cons.mp (List.pairwise_append.mp hsort).2.1).1 t m
          exact absurd this (by omega)

/-- No FREE tag, no lowest one. -/
theorem lowestFree_eq_none {s : State} (h : ∀ u : Tag, s.tags[u] ≠ .free) : lowestFree s.tags = none := by
  rw [lowestFree, List.find?_eq_none]
  intro u _
  simpa using h u

/-- The tag a grant takes is FREE. -/
theorem lowestFree_free {tags : Vector TagState 128} {t : Tag} (h : lowestFree tags = some t) : tags[t] = .free := by
  simpa using List.find?_some h

/-! ### Insertion entries -/

/-- Making an entry appends it or changes nothing. -/
theorem makeEntry_cases (d : EntryDraft) (s : State) :
    makeEntry d s = s ∨ s.normal = true ∧ quotaRoom s.insQ d.source d.kind = true
      ∧ makeEntry d s = { s with insQ := s.insQ ++ [d.entry s.nextAge], nextAge := s.nextAge + 1 } := by
  unfold makeEntry
  split
  · rename_i h; exact .inr ⟨(Bool.and_eq_true _ _ ▸ h).1, (Bool.and_eq_true _ _ ▸ h).2, rfl⟩
  · exact .inl rfl

/-- Making an entry while the engine is NORMAL and its kind has a place. -/
theorem makeEntry_eq {d : EntryDraft} {s : State} (h1 : s.engine = .normal)
    (h2 : quotaRoom s.insQ d.source d.kind = true) :
    makeEntry d s = { s with insQ := s.insQ ++ [d.entry s.nextAge], nextAge := s.nextAge + 1 } := by
  simp [makeEntry, State.normal, h1, h2]

/-- A kind with no entry of a source in the queue has a place. -/
theorem quotaRoom_of_none {q : List InsEntry} {src : Source} {kind : EntryKind}
    (h : ∀ e ∈ q, ¬ (e.source = src ∧ e.kind = kind)) : quotaRoom q src kind = true := by
  have : (q.countP fun e => decide (e.source = src) && decide (e.kind = kind)) = 0 := by
    rw [List.countP_eq_zero]; intro e he; simpa using h e he
  rw [quotaRoom, this, decide_eq_true_eq]
  cases kind <;> decide

/-- The entry on a tag, where it is the one in flight there. -/
theorem entryOn_of_inFlight {s : State} {e : InsEntry} {t : Tag} (h : s.inFlight e t) : entryOn s.insQ t = some e := by
  obtain ⟨-, hm, hs, hu⟩ := h
  rw [entryOn]
  cases f : s.insQ.find? fun x => decide (x.state = .issued t) with
  | none => exact absurd hs (by simpa using List.find?_eq_none.mp f e hm)
  | some x => rw [hu x (List.mem_of_find?_eq_some f) (.inr (by simpa using List.find?_some f))]

/-- An insertion answer acts on the entry in flight. -/
theorem execInsertionAnswer_eq {s : State} {e : InsEntry} {t : Tag} (status : AnswerStatus) (h : s.inFlight e t) :
    exec (.insertionAnswer t status) s = .next (answerEntry e status (s.setTag t .free)) := by
  simp only [exec, execInsertionAnswer, h.1, entryOn_of_inFlight h]

/-- Dropping the entry in flight and freeing its tag. -/
theorem dropEntry_setTag (s : State) (e : InsEntry) (t : Tag) : dropEntry e (s.setTag t .free) = s.freed e t := rfl

/-- The word an entry writes: its kind, and for a publish word its feed. -/
theorem InsEntry.word_cases {e : InsEntry} {w : WordId} (h : e.word = some w) :
    (∃ f, w = .publish f ∧ e.kind = .publishWord ∧ e.source = .feed f)
      ∨ (w = .catalogue ∧ e.kind = .catalogueWord) ∨ (w = .notice ∧ e.kind = .noticeWord) := by
  unfold InsEntry.word at h
  split at h <;> simp_all

/-- Of a queue in age order, the first QUEUED entry of the earliest step is the insertion candidate. -/
theorem insertionCandidate_eq {s : State} {e : InsEntry} (ha : s.agesRise) (hm : e ∈ s.insQ)
    (hq : e.state = .queued)
    (hmin : ∀ x ∈ s.insQ, x.state = .queued →
      chooseStep s e < chooseStep s x ∨ (chooseStep s e = chooseStep s x ∧ e.age ≤ x.age)) :
    insertionCandidate s = some e := by
  have hstep : chooseStep s e < 7 := by
    unfold chooseStep; split <;> omega
  have hnone : ∀ k, k < chooseStep s e →
      s.insQ.find? (fun x => x.queued && decide (chooseStep s x = k)) = none := by
    intro k hk
    rw [List.find?_eq_none]
    intro x hx hc
    simp only [InsEntry.queued, Bool.and_eq_true, decide_eq_true_eq] at hc
    rcases hmin x hx hc.1 with h | h <;> omega
  have hsome : s.insQ.find? (fun x => x.queued && decide (chooseStep s x = chooseStep s e)) = some e := by
    cases f : s.insQ.find? (fun x => x.queued && decide (chooseStep s x = chooseStep s e)) with
    | none =>
      have := List.find?_eq_none.mp f e hm
      simp [InsEntry.queued, hq] at this
    | some x =>
      obtain ⟨hx, pre, post, hl, hp⟩ := List.find?_eq_some_iff_append.mp f
      simp only [InsEntry.queued, Bool.and_eq_true, decide_eq_true_eq] at hx
      have hxm : x ∈ s.insQ := List.mem_of_find?_eq_some f
      have hage : e.age ≤ x.age := by rcases hmin x hxm hx.1 with h | h <;> omega
      have hord := ha.1
      rw [hl, List.map_append, List.map_cons] at hord
      have hm' : e ∈ pre ++ x :: post := hl ▸ hm
      rcases List.mem_append.mp hm' with m | m
      · have := hp e m
        simp [InsEntry.queued, hq] at this
      · rcases List.mem_cons.mp m with m | m
        · rw [m]
        · have := (List.pairwise_cons.mp (List.pairwise_append.mp hord).2.1).1 e.age (List.mem_map_of_mem m)
          omega
  have hsplit : List.range 7 = List.range (chooseStep s e) ++ List.range' (chooseStep s e) (7 - chooseStep s e) := by
    generalize chooseStep s e = k at hstep
    interval_cases k <;> rfl
  rw [insertionCandidate, hsplit, List.findSome?_append]
  have h0 : (List.range (chooseStep s e)).findSome?
      (fun k => s.insQ.find? fun x => x.queued && decide (chooseStep s x = k)) = none := by
    rw [List.findSome?_eq_none_iff]
    intro k hk
    exact hnone k (List.mem_range.mp hk)
  rw [h0, Option.none_or]
  obtain ⟨m, hm⟩ : ∃ m, 7 - chooseStep s e = m + 1 := ⟨7 - chooseStep s e - 1, by omega⟩
  rw [hm, List.range'_succ, List.findSome?_cons, hsome]

/-! ### The batch start test -/

/-- The start test changes nothing, or makes the batch's entry, and nothing else moves but the batch in flight. -/
theorem startBatch_cases (s : State) :
    startBatch s = s ∨ ∃ d, s.catalogue.defn = some d ∧ batchReady s d = true ∧
      startBatch s = { s with
        insQ := s.insQ ++ [(batchDraft s.catalogue d (batchSize s.catalogue d)).entry s.nextAge],
        nextAge := s.nextAge + 1,
        catalogue := { s.catalogue with
          batch := some { first := s.catalogue.produced.toNat % d.entries, size := batchSize s.catalogue d } } } := by
  unfold startBatch
  split
  · exact .inl rfl
  · rename_i d hd
    split
    · rename_i h
      refine .inr ⟨d, hd, h, ?_⟩
      simp only [batchReady, Bool.and_eq_true, State.normal, decide_eq_true_eq] at h
      simp only [makeBatch]
      rw [makeEntry_eq h.1.1.1.2 h.2]
    · exact .inl rfl

/-- A start test that passes found no batch in flight. -/
theorem batch_of_batchReady {s : State} {d : CatalogueDef} (h : batchReady s d = true) : s.catalogue.batch = none := by
  simp only [batchReady, Bool.and_eq_true, decide_eq_true_eq] at h
  exact h.1.1.1.1

/-- Staging a record is appending it and making the start test, or counting it lost. -/
theorem stageIndex_cases (r : IndexRecord) (s : State) :
    (s.catalogue.staging.length < 32 ∧ stageIndex r s = startBatch (appendIndex r s))
      ∨ (32 ≤ s.catalogue.staging.length ∧ stageIndex r s = { s with catalogue := { s.catalogue with
          lost := min 65535 (s.catalogue.lost + 1) } }) := by
  unfold stageIndex
  split
  · exact .inl ⟨‹_›, rfl⟩
  · exact .inr ⟨Nat.le_of_not_lt ‹_›, rfl⟩

/-! ### The notice write test -/

/-- The conditions of the write test as the rules give them. -/
theorem noticeReady_iff {s : State} {n : Notice} {rest : List Notice} (h : s.notices.staging = n :: rest) :
    noticeReady s = true ↔ (∀ e ∈ s.insQ, e.kind ≠ .notice)
      ∧ (s.notices.produced - s.notices.consumed).toNat < 64 ∧ s.engine = .normal := by
  simp [noticeReady, noticeInQueue, State.normal, h, and_assoc]

/-- The write test as the rules give it. -/
theorem makeNoticeEntry_eq (s : State) : makeNoticeEntry s = s.noticeTested := by
  unfold makeNoticeEntry State.noticeTested
  cases hs : s.notices.staging with
  | nil => simp
  | cons n rest =>
    simp only [noticeReady_iff hs]
    split
    · rename_i h
      exact makeEntry_eq h.2.2 (quotaRoom_of_none fun e he c => h.1 e he c.2)
    · rfl

/-- The write test changes nothing, or makes the head notice's entry where none was in the queue. -/
theorem makeNoticeEntry_cases (s : State) :
    makeNoticeEntry s = s ∨ ∃ n rest, s.notices.staging = n :: rest ∧ noticeReady s = true ∧
      makeNoticeEntry s = { s with insQ := s.insQ ++ [(noticeDraft n s).entry s.nextAge], nextAge := s.nextAge + 1 } := by
  unfold makeNoticeEntry
  split
  · rename_i h
    split
    · exact .inl rfl
    · rename_i n rest hs
      have c := (noticeReady_iff hs).mp h
      exact .inr ⟨n, rest, hs, h, makeEntry_eq c.2.2 (quotaRoom_of_none fun e he k => c.1 e he k.2)⟩
  · exact .inl rfl

/-- The write test reads the notices, the insertion queue, the engine, the straps and the next age alone, and what it
makes of a state that agrees on them is what it makes of the other. -/
theorem makeNoticeEntry_congr {s t : State} (h1 : t.notices = s.notices) (h2 : t.insQ = s.insQ)
    (h3 : t.engine = s.engine) (h4 : t.straps = s.straps) (h5 : t.nextAge = s.nextAge) :
    makeNoticeEntry t = { t with insQ := (makeNoticeEntry s).insQ, nextAge := (makeNoticeEntry s).nextAge } := by
  obtain ⟨⟩ := s
  obtain ⟨⟩ := t
  dsimp only at h1 h2 h3 h4 h5
  subst h1 h2 h3 h4 h5
  simp only [makeNoticeEntry_eq, State.noticeTested]
  split
  · rfl
  · split <;> rfl

/-- Staging a notice as the rules give it. -/
theorem stageNotice_eq (body : NoticeBody) (s : State) : stageNotice body s = s.noticeStaged body :=
  makeNoticeEntry_eq _

/-! ### Commands -/

/-- The head the command unit executes. -/
theorem executableHead_eq {s : State} {c : Command} {rest : List Command} {code : Byte}
    (h : s.headRuns c rest code) : executableHead s = some c := by
  obtain ⟨h1, h2, h3, h4, -⟩ := h
  simp [executableHead, State.normal, State.noticeRoom, h1, h2, h3, h4]

/-- Completing the head command is answering it. -/
theorem complete_eq_answered {s : State} {c : Command} {rest : List Command} (result : CommandResult) (detail : Nat)
    (h : s.commands.queue = c :: rest) : complete c result detail s = s.answered c rest result detail := by
  let body : NoticeBody := .commandDone c.serial c.opcodeByte c.feedField result detail
  have k := makeNoticeEntry_congr (s := appendNotice body s)
    (t := appendNotice body { s with commands := { queue := rest, phase := .ready } }) rfl rfl rfl rfl rfl
  rw [State.answered, ← stageNotice_eq, stageNotice, k, complete, stageNotice, popHead]
  simp [appendNotice, h, body]

/-- The feed a record names. -/
theorem Command.feed_eq {c : Command} {f : FeedId} (h : c.feedField = BitVec.ofNat 8 f.val) : c.feed = some f := by
  have : c.feedField.toNat = f.val := by rw [h, BitVec.toNat_ofNat]; omega
  simp [Command.feed, this]

/-- A record whose feed field is above 15 names none. -/
theorem Command.feed_none {c : Command} (h : 15 < c.feedField.toNat) : c.feed = none := by
  simp [Command.feed, Nat.not_lt.mpr h]

end Sys2Proof.Machine
end

