-- ==== Sys2Proof/Laws/Frames.lean ====
section
/-! SUPPORT. What the operations of a feed's blocks leave as it was: each touches its own feed and the queues it
feeds, and nothing the through-path, the command unit or another feed holds. -/

namespace Sys2Proof.Machine

/-! ### Replacing one feed more than once -/

@[simp] theorem State.setFeed_setFeed (s : State) (f : FeedId) (x y : Feed) :
    (s.setFeed f x).setFeed f y = s.setFeed f y := by
  simp [State.setFeed]

@[simp] theorem State.setFeed_modFeed (s : State) (f : FeedId) (x : Feed) (k : Feed → Feed) :
    (s.setFeed f x).modFeed f k = s.setFeed f (k x) := by
  simp [State.modFeed]

@[simp] theorem State.modFeed_modFeed (s : State) (f : FeedId) (j k : Feed → Feed) :
    (s.modFeed f j).modFeed f k = s.setFeed f (k (j (s.feed f))) := by
  simp [State.modFeed]

/-- A feed replaced by itself. -/
@[simp] theorem State.setFeed_self (s : State) (f : FeedId) : s.setFeed f (s.feed f) = s := by
  simp [State.setFeed, State.feed]

/-! ### The parser's stop -/

/-- Discarding a partly parsed line touches the reducer alone, and not its mode. -/
theorem discardLine_cases (x : Feed) : discardLine x = x ∨ discardLine x = { x with reducer := x.reducer.dropLine } := by
  unfold discardLine
  split
  · split
    · exact .inr rfl
    · exact .inl rfl
  · exact .inl rfl

@[simp] theorem discardLine_life (x : Feed) : (discardLine x).life = x.life := by
  rcases discardLine_cases x with h | h <;> rw [h]
@[simp] theorem discardLine_ingest (x : Feed) : (discardLine x).ingest = x.ingest := by
  rcases discardLine_cases x with h | h <;> rw [h]
@[simp] theorem discardLine_browse (x : Feed) : (discardLine x).browse = x.browse := by
  rcases discardLine_cases x with h | h <;> rw [h]
@[simp] theorem discardLine_missPending (x : Feed) : (discardLine x).missPending = x.missPending := by
  rcases discardLine_cases x with h | h <;> rw [h]
@[simp] theorem discardLine_parse (x : Feed) : (discardLine x).parse = x.parse := by
  rcases discardLine_cases x with h | h <;> rw [h]
@[simp] theorem discardLine_frame (x : Feed) : (discardLine x).frame = x.frame := by
  rcases discardLine_cases x with h | h <;> rw [h]
@[simp] theorem discardLine_rows (x : Feed) : (discardLine x).rows = x.rows := by
  rcases discardLine_cases x with h | h <;> rw [h]
@[simp] theorem discardLine_publisher (x : Feed) : (discardLine x).publisher = x.publisher := by
  rcases discardLine_cases x with h | h <;> rw [h]

@[simp] theorem Reducer.dropLine_mode (r : Reducer) : r.dropLine.mode = r.mode := by
  unfold Reducer.dropLine; split <;> simp_all

@[simp] theorem idleFeed_life (x : Feed) : (idleFeed x).life = x.life := by simp [idleFeed]
@[simp] theorem idleFeed_ingest (x : Feed) : (idleFeed x).ingest = x.ingest := by simp [idleFeed]
@[simp] theorem idleFeed_browse (x : Feed) : (idleFeed x).browse = x.browse := by simp [idleFeed]
@[simp] theorem idleFeed_rows (x : Feed) : (idleFeed x).rows = x.rows := by simp [idleFeed]
@[simp] theorem idleFeed_publisher (x : Feed) : (idleFeed x).publisher = x.publisher := by simp [idleFeed]
@[simp] theorem idleFeed_missPending (x : Feed) : (idleFeed x).missPending = false := by simp [idleFeed]
@[simp] theorem idleFeed_frame (x : Feed) : (idleFeed x).frame = { x.frame with retirePending := false } := by
  simp [idleFeed]
@[simp] theorem idleFeed_parse (x : Feed) : (idleFeed x).parse =
    { x.parse with state := .idle, residue := 0, packet := none, budget := 0 } := by simp [idleFeed]

/-! ### What is local to a feed -/

/-- From `s` to `t` only feed `f`, the insertion queue, the tags, the staging queues, the tap queue and, where none was in
flight, the batch have moved. -/
structure Local (f : FeedId) (s t : State) : Prop where
  pending : t.pending = s.pending
  straps : t.straps = s.straps
  timeBase : t.timeBase = s.timeBase
  forwardQ : t.forwardQ = s.forwardQ
  credit : t.credit = s.credit
  commands : t.commands = s.commands
  engine : t.engine = s.engine
  memPort : t.memPort = s.memPort
  fabricPort : t.fabricPort = s.fabricPort
  defn : t.catalogue.defn = s.catalogue.defn
  region : t.catalogue.region = s.catalogue.region
  batch : t.catalogue.batch = s.catalogue.batch ∨ s.catalogue.batch = none
  produced : t.catalogue.produced = s.catalogue.produced
  consumed : t.catalogue.consumed = s.catalogue.consumed
  noticeProduced : t.notices.produced = s.notices.produced
  noticeConsumed : t.notices.consumed = s.notices.consumed
  others : ∀ g : FeedId, g ≠ f → t.feed g = s.feed g

theorem Local.refl (f : FeedId) (s : State) : Local f s s :=
  ⟨rfl, rfl, rfl, rfl, rfl, rfl, rfl, rfl, rfl, rfl, rfl, .inl rfl, rfl, rfl, rfl, rfl, fun _ _ => rfl⟩

theorem Local.trans {f : FeedId} {s t u : State} (h : Local f s t) (k : Local f t u) : Local f s u :=
  ⟨k.1.trans h.1, k.2.trans h.2, k.3.trans h.3, k.4.trans h.4, k.5.trans h.5, k.6.trans h.6, k.7.trans h.7,
   k.8.trans h.8, k.9.trans h.9, k.10.trans h.10, k.11.trans h.11,
   h.12.elim (fun e => k.12.elim (fun d => .inl (d.trans e)) fun d => .inr (e ▸ d)) .inr, k.13.trans h.13,
   k.14.trans h.14, k.15.trans h.15, k.16.trans h.16, fun g hg => (k.17 g hg).trans (h.17 g hg)⟩

theorem local_setFeed (f : FeedId) (s : State) (x : Feed) : Local f s (s.setFeed f x) :=
  ⟨rfl, rfl, rfl, rfl, rfl, rfl, rfl, rfl, rfl, rfl, rfl, .inl rfl, rfl, rfl, rfl, rfl, fun _ hg => State.feed_setFeed_ne s x hg⟩

theorem local_modFeed (f : FeedId) (s : State) (k : Feed → Feed) : Local f s (s.modFeed f k) := local_setFeed f s _

theorem local_makeEntry (f : FeedId) (s : State) (d : EntryDraft) : Local f s (makeEntry d s) := by
  rcases makeEntry_cases d s with h | ⟨-, -, h⟩ <;> rw [h]
  · exact Local.refl f s
  · exact ⟨rfl, rfl, rfl, rfl, rfl, rfl, rfl, rfl, rfl, rfl, rfl, .inl rfl, rfl, rfl, rfl, rfl, fun _ _ => rfl⟩

theorem local_withdraw (f : FeedId) (s : State) (p : InsEntry → Bool) : Local f s (withdraw p s) :=
  ⟨rfl, rfl, rfl, rfl, rfl, rfl, rfl, rfl, rfl, rfl, rfl, .inl rfl, rfl, rfl, rfl, rfl, fun _ _ => rfl⟩

theorem local_makeNoticeEntry (f : FeedId) (s : State) : Local f s (makeNoticeEntry s) := by
  unfold makeNoticeEntry
  repeat' split
  · exact Local.refl f s
  · exact local_makeEntry f s _
  · exact Local.refl f s

theorem local_stageNotice (f : FeedId) (s : State) (b : NoticeBody) : Local f s (stageNotice b s) :=
  Local.trans (t := appendNotice b s)
    ⟨rfl, rfl, rfl, rfl, rfl, rfl, rfl, rfl, rfl, rfl, rfl, .inl rfl, rfl, rfl, rfl, rfl, fun _ _ => rfl⟩
    (local_makeNoticeEntry f _)

theorem local_stageEvent (f : FeedId) (s : State) (b : NoticeBody) : Local f s (stageEvent b s) := by
  unfold stageEvent
  split
  · exact local_stageNotice f s b
  · exact ⟨rfl, rfl, rfl, rfl, rfl, rfl, rfl, rfl, rfl, rfl, rfl, .inl rfl, rfl, rfl, rfl, rfl, fun _ _ => rfl⟩

theorem local_startBatch (f : FeedId) (s : State) : Local f s (startBatch s) := by
  rcases startBatch_cases s with h | ⟨d, -, hr, h⟩ <;> rw [h]
  · exact Local.refl f s
  · exact ⟨rfl, rfl, rfl, rfl, rfl, rfl, rfl, rfl, rfl, rfl, rfl, .inr (batch_of_batchReady hr), rfl, rfl, rfl, rfl, fun _ _ => rfl⟩

theorem local_stageIndex (f : FeedId) (s : State) (r : IndexRecord) : Local f s (stageIndex r s) := by
  rcases stageIndex_cases r s with ⟨-, h⟩ | ⟨-, h⟩ <;> rw [h]
  · have staged : Local f s (appendIndex r s) :=
      ⟨rfl, rfl, rfl, rfl, rfl, rfl, rfl, rfl, rfl, rfl, rfl, .inl rfl, rfl, rfl, rfl, rfl, fun _ _ => rfl⟩
    exact staged.trans (local_startBatch f _)
  · exact ⟨rfl, rfl, rfl, rfl, rfl, rfl, rfl, rfl, rfl, rfl, rfl, .inl rfl, rfl, rfl, rfl, rfl, fun _ _ => rfl⟩

theorem local_nextRowId (f : FeedId) (s : State) (n : Nat) : Local f s { s with nextRowId := n } :=
  ⟨rfl, rfl, rfl, rfl, rfl, rfl, rfl, rfl, rfl, rfl, rfl, .inl rfl, rfl, rfl, rfl, rfl, fun _ _ => rfl⟩

theorem local_tapQ (f : FeedId) (s : State) (q : List TapEntry) : Local f s { s with tapQ := q } :=
  ⟨rfl, rfl, rfl, rfl, rfl, rfl, rfl, rfl, rfl, rfl, rfl, .inl rfl, rfl, rfl, rfl, rfl, fun _ _ => rfl⟩

theorem local_updatePublish (f : FeedId) (s : State) : Local f s (updateWord (.publish f) s) := by
  unfold updateWord queueWord replaceWord setWord
  split
  · exact (local_makeEntry f s _).trans (local_modFeed f _ _)
  · exact ⟨rfl, rfl, rfl, rfl, rfl, rfl, rfl, rfl, rfl, rfl, rfl, .inl rfl, rfl, rfl, rfl, rfl, fun _ _ => rfl⟩
  · exact local_modFeed f _ _
  · exact Local.refl f s

/-! ### Bands -/

theorem local_handRow (f : FeedId) (r : FrameRecord) (slot : Nat) (b : BufferId) (s : State) :
    Local f s (handRow f r slot b s) := (local_setFeed f s _).trans (local_nextRowId f _ _)

theorem local_abandon (f : FeedId) (r : FrameRecord) (s : State) : Local f s (abandon f r s) := by
  unfold abandon
  exact (local_withdraw f s _).trans (local_modFeed f _ _)

theorem local_completeBand (f : FeedId) (s : State) : Local f s (completeBand f s) := by
  unfold completeBand
  dsimp only
  repeat' split
  all_goals first
    | exact Local.refl f s
    | exact local_abandon f _ s
    | exact (local_modFeed f s _).trans (local_handRow f _ _ _ _)

theorem local_completeBands (f : FeedId) (k : Nat) (s : State) : Local f s (completeBands f k s) := by
  induction k generalizing s with
  | zero => exact Local.refl f s
  | succ k ih =>
    unfold completeBands
    split
    · exact (local_completeBand f s).trans (ih _)
    · exact Local.refl f s

theorem local_reduceLine (f : FeedId) (line : Nat) (s : State) : Local f s (reduceLine f line s) := by
  unfold reduceLine
  dsimp only
  split
  · exact (local_completeBands f _ s).trans (local_modFeed f _ _)
  · exact local_completeBands f _ s

theorem local_closeBands (f : FeedId) (height : Nat) (s : State) : Local f s (closeBands f height s) :=
  (local_modFeed f s _).trans (local_completeBands f _ _)

/-! ### Frames -/

theorem local_finishHead (f : FeedId) (r : FrameRecord) (rest : List FrameRecord) (s : State) :
    Local f s (finishHead f r rest s) := (local_modFeed f s _).trans (local_stageIndex f _ _)

theorem local_sealHead (f : FeedId) (r : FrameRecord) (rest : List FrameRecord) (slot : Nat) (s : State) :
    Local f s (sealHead f r rest slot s) := (local_makeEntry f s _).trans (local_modFeed f _ _)

theorem local_settle (f : FeedId) (k : Nat) (s : State) : Local f s (settle f k s) := by
  induction k generalizing s with
  | zero => exact Local.refl f s
  | succ k ih =>
    unfold settle
    repeat' split
    · exact Local.refl f s
    · exact (local_finishHead f _ _ s).trans (ih _)
    · exact local_sealHead f _ _ _ s
    · exact Local.refl f s

theorem local_settleFeed (f : FeedId) (s : State) : Local f s (settleFeed f s) := local_settle f _ s

theorem local_stopParser (f : FeedId) (s : State) : Local f s (stopParser f s) :=
  (local_modFeed f s idleFeed).trans (local_tapQ f _ _)

theorem local_closeTracked (f : FeedId) (cause : CloseCause) (s : State) : Local f s (closeTracked f cause s) := by
  unfold closeTracked
  dsimp only
  refine Local.trans ?_ (local_settleFeed f _)
  refine Local.trans ?_ (local_modFeed f _ _)
  repeat' split
  · exact (local_setFeed f s _).trans (local_closeBands f _ _)
  · exact local_setFeed f s _
  · exact local_setFeed f s _

theorem local_closeFrame (f : FeedId) (cause : CloseCause) (s : State) : Local f s (closeFrame f cause s) := by
  unfold closeFrame
  dsimp only
  repeat' split
  · exact Local.refl f s
  · exact (local_closeTracked f cause s).trans (local_stopParser f _)
  · exact local_closeTracked f cause s
  · exact (local_modFeed f s _).trans (local_stopParser f _)
  · exact local_modFeed f s _

theorem local_handOpen (f : FeedId) (stamp : Time) (addr : Addr) (h : EssenceHeader) (s : State) :
    Local f s (handOpen f stamp addr h s) := by
  unfold handOpen
  dsimp only
  split
  · exact local_closeFrame f .noClose s
  · exact (local_closeFrame f .noClose s).trans (local_modFeed f _ _)

theorem local_completeLine (f : FeedId) (line : Nat) (r : FrameRecord) (s : State) :
    Local f s (completeLine f line r s) := by
  unfold completeLine
  dsimp only
  repeat' split
  · exact (local_modFeed f s _).trans (local_reduceLine f line _)
  · exact local_modFeed f s _
  · exact Local.refl f s

/-! ### Faults, presence and the parser -/

theorem local_discardAll (f : FeedId) (s : State) : Local f s (discardAll f s) :=
  (local_withdraw f s _).trans (local_modFeed f _ _)

theorem local_feedFault (f : FeedId) (cause : FaultCause) (s : State) : Local f s (feedFault f cause s) :=
  (((local_discardAll f s).trans (local_stopParser f _)).trans (local_modFeed f _ _)).trans (local_stageEvent f _ _)

theorem local_expireLoss (f : FeedId) (s : State) : Local f s (expireLoss f s) := by
  unfold expireLoss lossClose
  dsimp only
  refine Local.trans ?_ (local_stageEvent f _ _)
  split
  · exact local_modFeed f s _
  · exact ((local_modFeed f s _).trans (local_modFeed f _ _)).trans (local_closeFrame f .lost _)

theorem local_handOff (f : FeedId) (stamp : Time) (addr : Addr) (h : EssenceHeader) (s : State) :
    Local f s (handOff f stamp addr h s).1 := by
  unfold handOff handClose
  repeat' split
  · exact local_handOpen f stamp addr h s
  · exact local_setFeed f s _
  · exact local_setFeed f s _
  · exact local_modFeed f s _
  · exact (local_modFeed f s _).trans (local_closeFrame f .close _)
  · exact local_modFeed f s _

theorem local_takeHeader (f : FeedId) (stamp : Time) (addr : Addr) (h : EssenceHeader) (s : State) :
    Local f s (takeHeader f stamp addr h s) := by
  unfold takeHeader
  dsimp only
  split
  · exact ((local_modFeed f s _).trans (local_handOff f stamp addr h _)).trans (local_modFeed f _ _)
  · exact (local_modFeed f s _).trans (local_handOff f stamp addr h _)

theorem local_pictureWord (f : FeedId) (s : State) (word : Nat) : Local f s (pictureWord f s word) := by
  unfold pictureWord
  dsimp only
  split
  · split
    · exact Local.refl f s
    · split
      · exact (local_setFeed f s _).trans (local_completeLine f _ _ _)
      · exact local_setFeed f s _
  · exact Local.refl f s

theorem local_readPayload (f : FeedId) (bytes : List Byte) (s : State) : Local f s (readPayload f bytes s) := by
  have fold : ∀ (ws : List Nat) (u : State), Local f u (ws.foldl (pictureWord f) u) := by
    intro ws
    induction ws with
    | nil => exact fun u => Local.refl f u
    | cons w ws ih => exact fun u => (local_pictureWord f u w).trans (ih _)
  unfold readPayload
  split
  · exact fold _ s
  · exact local_modFeed f s _
  · exact Local.refl f s

theorem local_parsePosition (f : FeedId) (stamp : Time) (addr : Addr) (bytes : List Byte) (s : State) :
    Local f s (parsePosition f stamp addr bytes s) := by
  unfold parsePosition huntPosition headerPosition payloadPosition
  dsimp only
  repeat' split
  · exact Local.refl f s
  · exact local_takeHeader f stamp addr _ s
  · exact (local_modFeed f s _).trans (local_feedFault f .noLock _)
  · exact local_modFeed f s _
  · exact (local_modFeed f s _).trans (local_takeHeader f stamp addr _ _)
  · exact local_modFeed f s _
  · exact (local_readPayload f bytes s).trans (local_modFeed f _ _)

theorem local_parsePositions (f : FeedId) (stamp : Time) (addr : Addr) (l : List (List Byte)) (s : State) :
    Local f s (parsePositions f stamp addr l s) := by
  induction l generalizing addr s with
  | nil => exact Local.refl f s
  | cons b l ih => exact (local_parsePosition f stamp addr b s).trans (ih _ _)

/-- Parsing an entry is local to its feed. -/
theorem local_parseEntry (e : TapEntry) (s : State) : Local e.feed s (parseEntry e s) := by
  unfold parseEntry
  dsimp only
  split
  · exact (local_modFeed e.feed s _).trans (local_parsePositions e.feed _ _ _ _)
  · exact local_parsePositions e.feed _ _ _ _

/-- A header answered is local to its feed. -/
theorem local_headerAnswered (f : FeedId) (s : State) : Local f s (headerAnswered f s) := by
  unfold headerAnswered
  dsimp only
  split
  · exact Local.refl f s
  · split
    · exact ((((local_modFeed f s _).trans (local_updatePublish f _)).trans (local_finishHead f _ _ _)).trans
        (local_settleFeed f _))
    · exact Local.refl f s

/-- A row answered is local to its feed. -/
theorem local_rowAnswered (f : FeedId) (ref : RowRef) (s : State) : Local f s (rowAnswered f ref s) :=
  (local_modFeed f s _).trans (local_settleFeed f _)

/-- A drain's exit is local to its feed but for the notice it stages. -/
theorem local_exitDrain (f : FeedId) (s : State) : Local f s (exitDrain f s) := by
  unfold exitDrain
  split
  · exact local_modFeed f s _
  · exact (local_modFeed f s _).trans (local_stageNotice f _ _)

/-- An arrival is local to its feed. -/
theorem local_arrival (f : FeedId) (stamp : Time) (s : State) : Local f s (arrival f stamp s) := by
  unfold arrival
  dsimp only
  split
  · exact (local_modFeed f s _).trans (local_stageEvent f _ _)
  · exact local_modFeed f s _

end Sys2Proof.Machine
end

