-- ==== Sys2Proof/Laws/Acceptance.lean ====
section
/-! SUPPORT. What acceptance is made of, one lemma per operation: the request joins the forward queue, and a write
then takes the actions of its class. -/

namespace Sys2Proof.Machine

/-- The forward queue plays no part in an address's class. -/
@[simp] theorem classify_forwardQ (s : State) (q : List FabricRequest) (a : Addr) :
    classify { s with forwardQ := q } a = classify s a := rfl

@[simp] theorem State.feed_forwardQ (s : State) (q : List FabricRequest) (f : FeedId) :
    State.feed { s with forwardQ := q } f = s.feed f := rfl

@[simp] theorem State.feed_tapQ (s : State) (q : List TapEntry) (f : FeedId) :
    State.feed { s with tapQ := q } f = s.feed f := rfl

/-- A read is no command capture. -/
theorem captureOf_read {s : State} {r : FabricRequest} {n : Nat} (h : r.body = .read n) : captureOf s r = none := by
  simp only [captureOf, h]

/-- A write outside the control block is no command capture. -/
theorem captureOf_of_class {s : State} {r : FabricRequest} {lanes : List Lane} (h : r.body = .write lanes)
    (hc : classify s r.addr ≠ .control) : captureOf s r = none := by
  have : inControl s r.addr = false := by
    by_contra hh
    have : classify s r.addr = .control := by
      simp only [Bool.not_eq_false] at hh
      simp only [classify, hh, if_true]
    exact hc this
  simp only [captureOf, h, this, Bool.and_false, Bool.false_and, Bool.false_eq_true, if_false]

/-- A write that breaks the 4 KiB rule is no command capture. -/
theorem captureOf_of_broken {s : State} {r : FabricRequest} {lanes : List Lane} (h : r.body = .write lanes)
    (hk : keepsRule r = false) : captureOf s r = none := by
  simp only [captureOf, h, hk, Bool.false_and, Bool.false_eq_true, if_false]

/-- A request is accepted where the forward queue has room, and a capture where the command queue has too. -/
theorem accepts_iff (s : State) (r : FabricRequest) : accepts s r = true ↔
    s.forwardQ.length < 32 ∧ (captureOf s r = none ∨ s.commands.queue.length < 8) := by
  simp only [accepts, Bool.and_eq_true, Bool.or_eq_true, decide_eq_true_eq, Option.isNone_iff_eq_none]

/-- A write accepted takes the actions of its class. -/
theorem exec_accept_write {s : State} {r : FabricRequest} {lanes : List Lane} (h1 : s.forwardQ.length < 32)
    (h2 : r.body = .write lanes) (h3 : captureOf s r = none ∨ s.commands.queue.length < 8) :
    exec (.fabricRequestAccept r) s = .next (writeActions r lanes { s with forwardQ := s.forwardQ ++ [r] }) := by
  have : accepts s r = true := (accepts_iff s r).2 ⟨h1, h3⟩
  simp only [exec, execFabricRequestAccept, this, if_true, acceptRequest, h2]

/-- A read accepted joins the forward queue, and does nothing else. -/
theorem exec_accept_read {s : State} {r : FabricRequest} {n : Nat} (h1 : s.forwardQ.length < 32)
    (h2 : r.body = .read n) : exec (.fabricRequestAccept r) s = .next { s with forwardQ := s.forwardQ ++ [r] } := by
  have : accepts s r = true := (accepts_iff s r).2 ⟨h1, .inl (captureOf_read h2)⟩
  simp only [exec, execFabricRequestAccept, this, if_true, acceptRequest, h2]

/-- Staging an event notice moves the notice writer and makes at most its entry, and the notices, the insertion queue,
the engine, the straps, the time and the next age alone decide what it does. -/
theorem stageEvent_congr (body : NoticeBody) {s t : State} (h1 : t.notices = s.notices) (h2 : t.insQ = s.insQ)
    (h3 : t.engine = s.engine) (h4 : t.straps = s.straps) (h5 : t.nextAge = s.nextAge) (h6 : t.timeBase = s.timeBase) :
    stageEvent body t = { t with
      notices := (stageEvent body s).notices, insQ := (stageEvent body s).insQ,
      nextAge := (stageEvent body s).nextAge } := by
  unfold stageEvent State.noticeRoom
  rw [h1]
  split
  · have ha : (appendNotice body t).notices = (appendNotice body s).notices := by simp only [appendNotice, h1, h6]
    rw [stageNotice, stageNotice, makeNoticeEntry_congr (s := appendNotice body s) ha h2 h3 h4 h5]
    simp only [makeNoticeEntry_notices, ← ha]
    rfl
  · simp only [← h2, ← h5]

/-- Staging an event notice changes the notice writer and the insertion queue alone. -/
theorem stageEvent_eq (body : NoticeBody) (s : State) : stageEvent body s = { s with
    notices := (stageEvent body s).notices, insQ := (stageEvent body s).insQ, nextAge := (stageEvent body s).nextAge } :=
  stageEvent_congr body rfl rfl rfl rfl rfl rfl

/-- An arrival moves the last arrival time and the presence, and restores an ABSENT feed with a notice. -/
theorem arrival_eq (f : FeedId) (stamp : Time) (s : State) :
    arrival f stamp s =
      let moved := s.setFeed f { s.feed f with
        life := { (s.feed f).life with lastArrival := stamp, presence := .present } }
      if (s.feed f).life.presence = .absent then stageEvent (.feedRestored f stamp) moved else moved := rfl

end Sys2Proof.Machine
end

