-- ==== Sys2Proof/Laws/Faults.lean ====
section
/-! SUPPORT. What the discard of a feed's records, the parser's stop, a feed fault and the engine's failure leave, each
said once. -/

namespace Sys2Proof.Machine

/-! ### Updates that keep the feeds -/

@[simp] theorem State.freed_feed (s : State) (e : InsEntry) (t : Tag) (f : FeedId) :
    (s.freed e t).feed f = s.feed f := rfl

@[simp] theorem State.answered_feed (s : State) (c : Command) (rest : List Command) (r : CommandResult) (d : Nat)
    (f : FeedId) : (s.answered c rest r d).feed f = s.feed f := by
  rw [State.answered, ← stageNotice_eq, stageNotice_feed]
  rfl

@[simp] theorem State.feed_insQ (s : State) (q : List InsEntry) (f : FeedId) :
    State.feed { s with insQ := q } f = s.feed f := rfl

@[simp] theorem State.feed_catalogue (s : State) (c : Catalogue) (f : FeedId) :
    State.feed { s with catalogue := c } f = s.feed f := rfl

@[simp] theorem State.feed_notices (s : State) (n : NoticeWriter) (f : FeedId) :
    State.feed { s with notices := n } f = s.feed f := rfl

@[simp] theorem State.feed_commands (s : State) (c : CommandUnit) (f : FeedId) :
    State.feed { s with commands := c } f = s.feed f := rfl

/-! ### The parser's stop and the discard -/

/-- The parser's stop: the feed idles, and its tap entries are purged. -/
theorem stopParser_eq (f : FeedId) (s : State) : stopParser f s =
    { s.setFeed f (idleFeed (s.feed f)) with tapQ := s.tapQ.filter fun e => decide (e.feed ≠ f) } := rfl

@[simp] theorem stopParser_feed_self (f : FeedId) (s : State) : (stopParser f s).feed f = idleFeed (s.feed f) := by
  rw [stopParser_eq, State.feed_tapQ, State.feed_setFeed_self]

@[simp] theorem stopParser_feed_ne (s : State) {f g : FeedId} (h : g ≠ f) : (stopParser f s).feed g = s.feed g := by
  rw [stopParser_eq, State.feed_tapQ, State.feed_setFeed_ne _ _ h]

@[simp] theorem stopParser_insQ (f : FeedId) (s : State) : (stopParser f s).insQ = s.insQ := rfl
@[simp] theorem stopParser_tags (f : FeedId) (s : State) : (stopParser f s).tags = s.tags := rfl
@[simp] theorem stopParser_notices (f : FeedId) (s : State) : (stopParser f s).notices = s.notices := rfl
@[simp] theorem stopParser_timeBase (f : FeedId) (s : State) : (stopParser f s).timeBase = s.timeBase := rfl
@[simp] theorem stopParser_tapQ (f : FeedId) (s : State) :
    (stopParser f s).tapQ = s.tapQ.filter fun e => decide (e.feed ≠ f) := rfl

/-- The discard: the feed's entries are withdrawn and the feed's own part of it is done. -/
theorem discardAll_eq (f : FeedId) (s : State) : discardAll f s =
    { s.setFeed f (discardFeed (hasPublishEntry f s.insQ) (s.feed f)) with
      insQ := s.insQ.filter fun e => !decide (e.source = .feed f),
      tags := (s.insQ.filter fun e => decide (e.source = .feed f)).foldl orphanTag s.tags } := by
  simp only [discardAll, State.modFeed, withdraw_feed]
  rfl

/-- What a feed fault leaves of its feed. -/
def faultedFeed (cause : FaultCause) (publishing : Bool) (x : Feed) : Feed :=
  idleReducer { idleFeed (discardFeed publishing x) with life := faultLife cause x.frame.records.length x.life }

/-- A feed fault before its notice: the feed, its entries and their tags, and its tap entries. -/
def faultedState (f : FeedId) (cause : FaultCause) (s : State) : State :=
  { s.setFeed f (faultedFeed cause (hasPublishEntry f s.insQ) (s.feed f)) with
    insQ := s.insQ.filter fun e => !decide (e.source = .feed f),
    tags := (s.insQ.filter fun e => decide (e.source = .feed f)).foldl orphanTag s.tags,
    tapQ := s.tapQ.filter fun e => decide (e.feed ≠ f) }

/-- A feed fault, whole: the feed, its entries and their tags, its tap entries, and then the notice. -/
theorem feedFault_eq (f : FeedId) (cause : FaultCause) (s : State) : feedFault f cause s =
    stageEvent (.feedFault f cause (s.feed f).frame.records.length) (faultedState f cause s) := by
  have hx : (discardAll f s).feed f = discardFeed (hasPublishEntry f s.insQ) (s.feed f) := by
    simp only [discardAll, State.feed_modFeed_self, withdraw_feed]
  rw [feedFault]
  congr 1
  simp only [State.modFeed, stopParser_feed_self, hx, idleFeed_life, discardFeed]
  rw [stopParser_eq, hx, discardAll_eq]
  simp only [State.setFeed, Vector.set_set]
  rfl

@[simp] theorem faultedFeed_life (c : FaultCause) (p : Bool) (x : Feed) :
    (faultedFeed c p x).life = faultLife c x.frame.records.length x.life := rfl
@[simp] theorem faultedFeed_ingest (c : FaultCause) (p : Bool) (x : Feed) : (faultedFeed c p x).ingest = x.ingest := by
  simp [faultedFeed, idleReducer, discardFeed]
@[simp] theorem faultedFeed_browse (c : FaultCause) (p : Bool) (x : Feed) : (faultedFeed c p x).browse = x.browse := by
  simp [faultedFeed, idleReducer, discardFeed]
@[simp] theorem faultedFeed_missPending (c : FaultCause) (p : Bool) (x : Feed) :
    (faultedFeed c p x).missPending = false := by
  simp [faultedFeed, idleReducer]
@[simp] theorem faultedFeed_parse (c : FaultCause) (p : Bool) (x : Feed) : (faultedFeed c p x).parse =
    { x.parse with state := .idle, residue := 0, packet := none, budget := 0 } := by
  simp [faultedFeed, idleReducer, discardFeed]
@[simp] theorem faultedFeed_frame (c : FaultCause) (p : Bool) (x : Feed) : (faultedFeed c p x).frame =
    { x.frame with records := [], openFrame := .none, retirePending := false } := by
  simp [faultedFeed, idleReducer, discardFeed]
@[simp] theorem faultedFeed_reducerMode (c : FaultCause) (p : Bool) (x : Feed) :
    (faultedFeed c p x).reducer.mode = .idle := rfl
@[simp] theorem faultedFeed_rows (c : FaultCause) (p : Bool) (x : Feed) :
    (faultedFeed c p x).rows = x.rows.change (fun _ => true) dealItem := by
  simp [faultedFeed, idleReducer, discardFeed]
@[simp] theorem faultedFeed_publisher (c : FaultCause) (p : Bool) (x : Feed) : (faultedFeed c p x).publisher =
    { x.publisher with assigned := x.publisher.published, word := .none, stale := x.publisher.stale || p } := by
  simp [faultedFeed, idleReducer, discardFeed]

/-! ### Failures -/

/-- What a failed entry of a feed leaves with its source: the feed's row items and its word state, alone. -/
theorem forgetFailed_feed {e : InsEntry} {f : FeedId} (s : State) (hs : e.source = .feed f)
    (hk : kindFits e.source e.kind = true) :
    ∃ items word, forgetFailed e s = s.setFeed f { s.feed f with
      rows := { (s.feed f).rows with items := items }, publisher := { (s.feed f).publisher with word := word } } := by
  have same : s = s.setFeed f { s.feed f with
      rows := { (s.feed f).rows with items := (s.feed f).rows.items },
      publisher := { (s.feed f).publisher with word := (s.feed f).publisher.word } } := (State.setFeed_self s f).symm
  have hk' : e.kind = .row ∨ e.kind = .header ∨ e.kind = .publishWord := by
    rw [hs] at hk; revert hk; cases e.kind <;> simp [kindFits]
  rcases hk' with k | k | k
  · cases hr : e.row with
    | none => exact ⟨_, _, by simpa only [forgetFailed, k, hs, hr] using same⟩
    | some ref =>
      exact ⟨_, (s.feed f).publisher.word, by simp only [forgetFailed, k, hs, hr]; rfl⟩
  · exact ⟨_, _, by simpa only [forgetFailed, k, hs] using same⟩
  · exact ⟨(s.feed f).rows.items, .none, by simp only [forgetFailed, k, hs]; rfl⟩

/-- The engine's failure acts on every feed alike. -/
@[simp] theorem enterFailed_feed (s : State) (f : FeedId) : (enterFailed s).feed f = failFeed (s.feed f) := by
  simp [enterFailed, State.feed]

@[simp] theorem failFeed_life (x : Feed) : (failFeed x).life = x.life := by simp [failFeed, idleReducer]
@[simp] theorem failFeed_ingest (x : Feed) : (failFeed x).ingest = x.ingest := by simp [failFeed, idleReducer]
@[simp] theorem failFeed_browse (x : Feed) : (failFeed x).browse = x.browse := by simp [failFeed, idleReducer]
@[simp] theorem failFeed_missPending (x : Feed) : (failFeed x).missPending = false := by simp [failFeed, idleReducer]
@[simp] theorem failFeed_parse (x : Feed) : (failFeed x).parse =
    { x.parse with state := .idle, residue := 0, packet := none, budget := 0 } := by simp [failFeed, idleReducer]
@[simp] theorem failFeed_frame (x : Feed) : (failFeed x).frame = { x.frame with retirePending := false } := by
  simp [failFeed, idleReducer]
@[simp] theorem failFeed_reducerMode (x : Feed) : (failFeed x).reducer.mode = .idle := rfl
@[simp] theorem failFeed_rows (x : Feed) : (failFeed x).rows = x.rows.change (fun _ => true) failItem := by
  simp [failFeed, idleReducer]
@[simp] theorem failFeed_publisher (x : Feed) : (failFeed x).publisher =
    { x.publisher with word := if x.publisher.word = .queued then .none else x.publisher.word } := by
  simp [failFeed, idleReducer]

end Sys2Proof.Machine
end

