-- ==== Sys2Proof/Laws/Kept.lean ====
section
/-! SUPPORT. What the parser, the frame unit and a fault leave of their own feed: its definition and windows, its last
arrival, and the counts P and R. -/

namespace Sys2Proof.Machine

/-- A feed's definition, windows, last arrival, P and R are as they were. -/
structure FeedKept (x y : Feed) : Prop where
  defn : y.life.defn = x.life.defn
  lastArrival : y.life.lastArrival = x.life.lastArrival
  ingest : y.ingest = x.ingest
  browse : y.browse = x.browse
  published : y.publisher.published = x.publisher.published
  released : y.publisher.released = x.publisher.released

theorem FeedKept.refl (x : Feed) : FeedKept x x := ⟨rfl, rfl, rfl, rfl, rfl, rfl⟩

theorem FeedKept.trans {x y z : Feed} (h : FeedKept x y) (k : FeedKept y z) : FeedKept x z :=
  ⟨k.1.trans h.1, k.2.trans h.2, k.3.trans h.3, k.4.trans h.4, k.5.trans h.5, k.6.trans h.6⟩

/-- The machine's feed `f` is kept from `s` to `t`. -/
abbrev Kept (f : FeedId) (s t : State) : Prop := FeedKept (s.feed f) (t.feed f)

/-- A feed kept works by the same parameters. -/
theorem FeedKept.params {x y : Feed} (h : FeedKept x y) : y.params = x.params := by
  simp [Feed.params, h.defn]

theorem kept_setFeed {f : FeedId} {s : State} {x : Feed} (h : FeedKept (s.feed f) x) : Kept f s (s.setFeed f x) := by
  simpa [Kept] using h

theorem kept_modFeed {f : FeedId} {s : State} {k : Feed → Feed} (h : FeedKept (s.feed f) (k (s.feed f))) :
    Kept f s (s.modFeed f k) := by
  simpa [Kept] using h

theorem kept_of_feed_eq {f : FeedId} {s t : State} (h : t.feed f = s.feed f) : Kept f s t := by
  rw [Kept, h]; exact FeedKept.refl _

/-- Kept, then its feed changed. -/
theorem Kept.modFeed {f : FeedId} {s t : State} {k : Feed → Feed} (h : Kept f s t)
    (c : FeedKept (t.feed f) (k (t.feed f))) : Kept f s (t.modFeed f k) :=
  FeedKept.trans (y := t.feed f) h (kept_modFeed c)

/-- Kept, then its feed left as it is. -/
theorem Kept.congr {f : FeedId} {s t u : State} (h : Kept f s t) (e : u.feed f = t.feed f) : Kept f s u := by
  rw [Kept, e]; exact h

theorem kept_makeEntry (f : FeedId) (s : State) (d : EntryDraft) : Kept f s (makeEntry d s) :=
  kept_of_feed_eq (by simp)

theorem kept_stageIndex (f : FeedId) (s : State) (r : IndexRecord) : Kept f s (stageIndex r s) :=
  kept_of_feed_eq (by simp)

theorem kept_updatePublish (f : FeedId) (s : State) : Kept f s (updateWord (.publish f) s) := by
  unfold updateWord queueWord
  split
  · exact (kept_makeEntry f s _).trans (kept_modFeed ⟨rfl, rfl, rfl, rfl, rfl, rfl⟩)
  · exact kept_of_feed_eq (by simp)
  · exact kept_modFeed ⟨rfl, rfl, rfl, rfl, rfl, rfl⟩
  · exact FeedKept.refl _

/-! ### Bands -/

theorem kept_handRow (f : FeedId) (r : FrameRecord) (slot : Nat) (b : BufferId) (s : State) :
    Kept f s (handRow f r slot b s) := by
  have h : (handRow f r slot b s).feed f = (State.setFeed s f (Feed.onOpen (fun q => { q with rowsQueued := q.rowsQueued + 1 })
      { s.feed f with
        rows := { (s.feed f).rows with items := (s.feed f).rows.items ++
          [rowItem s.nextRowId (s.feed f).params r slot (s.feed f).reducer.band b] },
        reducer := (s.feed f).reducer.nextBand (r.height / (s.feed f).params.decimation) })).feed f := rfl
  rw [Kept, h, State.feed_setFeed_self]
  exact ⟨rfl, rfl, rfl, rfl, rfl, rfl⟩

theorem kept_abandon (f : FeedId) (r : FrameRecord) (s : State) : Kept f s (abandon f r s) := by
  unfold abandon
  exact FeedKept.trans (y := (withdraw _ s).feed f) (kept_of_feed_eq (by simp))
    (kept_modFeed ⟨rfl, rfl, rfl, rfl, rfl, rfl⟩)

theorem kept_completeBand (f : FeedId) (s : State) : Kept f s (completeBand f s) := by
  unfold completeBand
  dsimp only
  repeat' split
  all_goals first
    | exact FeedKept.refl _
    | exact kept_abandon f _ s
    | exact FeedKept.trans (kept_modFeed ⟨rfl, rfl, rfl, rfl, rfl, rfl⟩) (kept_handRow f _ _ _ _)

theorem kept_completeBands (f : FeedId) (k : Nat) (s : State) : Kept f s (completeBands f k s) := by
  induction k generalizing s with
  | zero => exact FeedKept.refl _
  | succ k ih =>
    unfold completeBands
    split
    · exact (kept_completeBand f s).trans (ih _)
    · exact FeedKept.refl _

theorem kept_reduceLine (f : FeedId) (line : Nat) (s : State) : Kept f s (reduceLine f line s) := by
  unfold reduceLine
  dsimp only
  split
  · exact (kept_completeBands f _ s).trans (kept_modFeed ⟨rfl, rfl, rfl, rfl, rfl, rfl⟩)
  · exact kept_completeBands f _ s

theorem kept_closeBands (f : FeedId) (height : Nat) (s : State) : Kept f s (closeBands f height s) :=
  FeedKept.trans (y := (s.modFeed f _).feed f) (kept_modFeed ⟨rfl, rfl, rfl, rfl, rfl, rfl⟩) (kept_completeBands f _ _)

/-! ### Frames -/

theorem kept_finishHead (f : FeedId) (r : FrameRecord) (rest : List FrameRecord) (s : State) :
    Kept f s (finishHead f r rest s) :=
  FeedKept.trans (y := (s.modFeed f _).feed f) (kept_modFeed ⟨rfl, rfl, rfl, rfl, rfl, rfl⟩) (kept_stageIndex f _ _)

theorem kept_sealHead (f : FeedId) (r : FrameRecord) (rest : List FrameRecord) (slot : Nat) (s : State) :
    Kept f s (sealHead f r rest slot s) :=
  FeedKept.trans (y := (makeEntry _ s).feed f) (kept_makeEntry f s _) (kept_modFeed ⟨rfl, rfl, rfl, rfl, rfl, rfl⟩)

theorem kept_settle (f : FeedId) (k : Nat) (s : State) : Kept f s (settle f k s) := by
  induction k generalizing s with
  | zero => exact FeedKept.refl _
  | succ k ih =>
    unfold settle
    repeat' split
    · exact FeedKept.refl _
    · exact (kept_finishHead f _ _ s).trans (ih _)
    · exact kept_sealHead f _ _ _ s
    · exact FeedKept.refl _

theorem kept_settleFeed (f : FeedId) (s : State) : Kept f s (settleFeed f s) := kept_settle f _ s

theorem kept_stopParser (f : FeedId) (s : State) : Kept f s (stopParser f s) :=
  FeedKept.trans (y := (s.modFeed f idleFeed).feed f)
    (kept_modFeed ⟨by simp, by simp, by simp, by simp, by simp, by simp⟩) (kept_of_feed_eq rfl)

theorem kept_closeTracked (f : FeedId) (cause : CloseCause) (s : State) : Kept f s (closeTracked f cause s) := by
  unfold closeTracked
  dsimp only
  refine FeedKept.trans (Kept.modFeed ?_ ⟨rfl, rfl, rfl, rfl, rfl, rfl⟩) (kept_settleFeed f _)
  repeat' split
  · refine FeedKept.trans ?_ (kept_closeBands f _ _)
    exact kept_setFeed ⟨rfl, rfl, rfl, rfl, rfl, rfl⟩
  · exact kept_setFeed ⟨rfl, rfl, rfl, rfl, rfl, rfl⟩
  · exact kept_setFeed ⟨rfl, rfl, rfl, rfl, rfl, rfl⟩

theorem kept_closeFrame (f : FeedId) (cause : CloseCause) (s : State) : Kept f s (closeFrame f cause s) := by
  unfold closeFrame
  dsimp only
  repeat' split
  · exact FeedKept.refl _
  · exact (kept_closeTracked f cause s).trans (kept_stopParser f _)
  · exact kept_closeTracked f cause s
  · exact FeedKept.trans (kept_modFeed ⟨rfl, rfl, rfl, rfl, rfl, rfl⟩) (kept_stopParser f _)
  · exact kept_modFeed ⟨rfl, rfl, rfl, rfl, rfl, rfl⟩

theorem openFrame_kept (stamp : Time) (addr : Addr) (h : EssenceHeader) (x : Feed) :
    FeedKept x (openFrame stamp addr h x) := by
  unfold openFrame openTracked openUntracked openSerial Feed.count
  dsimp only
  split
  · refine ⟨rfl, rfl, rfl, rfl, ?_, ?_⟩ <;> dsimp only <;> split <;> rfl
  · exact ⟨rfl, rfl, rfl, rfl, rfl, rfl⟩

theorem kept_handOpen (f : FeedId) (stamp : Time) (addr : Addr) (h : EssenceHeader) (s : State) :
    Kept f s (handOpen f stamp addr h s) := by
  unfold handOpen
  dsimp only
  split
  · exact kept_closeFrame f .noClose s
  · exact (kept_closeFrame f .noClose s).trans (kept_modFeed (openFrame_kept stamp addr h _))

theorem kept_completeLine (f : FeedId) (line : Nat) (r : FrameRecord) (s : State) :
    Kept f s (completeLine f line r s) := by
  unfold completeLine
  dsimp only
  repeat' split
  · exact FeedKept.trans (kept_modFeed ⟨rfl, rfl, rfl, rfl, rfl, rfl⟩) (kept_reduceLine f line _)
  · exact kept_modFeed ⟨rfl, rfl, rfl, rfl, rfl, rfl⟩
  · exact FeedKept.refl _

/-! ### Faults and the parser -/

theorem countLength_kept (n : Nat) (x : Feed) : FeedKept x (countLength n x) := by
  unfold countLength
  split
  · exact ⟨rfl, rfl, rfl, rfl, rfl, rfl⟩
  · exact FeedKept.refl _

theorem kept_discardAll (f : FeedId) (s : State) : Kept f s (discardAll f s) :=
  FeedKept.trans (y := (withdraw _ s).feed f) (kept_of_feed_eq (by simp))
    (kept_modFeed ⟨rfl, rfl, rfl, rfl, rfl, rfl⟩)

theorem kept_feedFault (f : FeedId) (cause : FaultCause) (s : State) : Kept f s (feedFault f cause s) := by
  unfold feedFault
  dsimp only
  refine Kept.congr (Kept.modFeed ((kept_discardAll f s).trans (kept_stopParser f _)) ?_) (stageEvent_feed _ _ f)
  exact ⟨rfl, rfl, rfl, rfl, rfl, rfl⟩

theorem kept_handPayload (test : FrameRecord → Disposition × FrameRecord) (x : Feed) :
    FeedKept x (handPayload test x).1 := by
  unfold handPayload
  repeat' split
  all_goals exact ⟨rfl, rfl, rfl, rfl, rfl, rfl⟩

theorem kept_handOff (f : FeedId) (stamp : Time) (addr : Addr) (h : EssenceHeader) (s : State) :
    Kept f s (handOff f stamp addr h s).1 := by
  unfold handOff handClose
  repeat' split
  · exact kept_handOpen f stamp addr h s
  · exact kept_setFeed ((countLength_kept 32 _).trans (kept_handPayload _ _))
  · exact kept_setFeed ((countLength_kept 32 _).trans (kept_handPayload _ _))
  · exact kept_modFeed ⟨rfl, rfl, rfl, rfl, rfl, rfl⟩
  · exact FeedKept.trans (kept_modFeed (countLength_kept _ _)) (kept_closeFrame f .close _)
  · exact kept_modFeed (countLength_kept _ _)

theorem kept_takeHeader (f : FeedId) (stamp : Time) (addr : Addr) (h : EssenceHeader) (s : State) :
    Kept f s (takeHeader f stamp addr h s) := by
  unfold takeHeader
  dsimp only
  split
  · exact FeedKept.trans (FeedKept.trans (kept_modFeed ⟨rfl, rfl, rfl, rfl, rfl, rfl⟩) (kept_handOff f stamp addr h _))
      (kept_modFeed ⟨rfl, rfl, rfl, rfl, rfl, rfl⟩)
  · exact FeedKept.trans (kept_modFeed ⟨rfl, rfl, rfl, rfl, rfl, rfl⟩) (kept_handOff f stamp addr h _)

theorem kept_pictureWord (f : FeedId) (s : State) (word : Nat) : Kept f s (pictureWord f s word) := by
  unfold pictureWord
  dsimp only
  split
  · split
    · exact FeedKept.refl _
    · split
      · refine FeedKept.trans (kept_setFeed ?_) (kept_completeLine f _ _ _)
        split <;> exact ⟨rfl, rfl, rfl, rfl, rfl, rfl⟩
      · refine kept_setFeed ?_
        split <;> exact ⟨rfl, rfl, rfl, rfl, rfl, rfl⟩
  · exact FeedKept.refl _

theorem audioWord_kept (x : Feed) (word : Nat) : FeedKept x (audioWord x word) := by
  unfold audioWord
  repeat' split
  all_goals exact ⟨rfl, rfl, rfl, rfl, rfl, rfl⟩

theorem kept_readPayload (f : FeedId) (bytes : List Byte) (s : State) : Kept f s (readPayload f bytes s) := by
  have pictures : ∀ (ws : List Nat) (u : State), Kept f u (ws.foldl (pictureWord f) u) := by
    intro ws
    induction ws with
    | nil => exact fun u => FeedKept.refl _
    | cons w ws ih => exact fun u => (kept_pictureWord f u w).trans (ih _)
  have samples : ∀ (ws : List Nat) (x : Feed), FeedKept x (ws.foldl audioWord x) := by
    intro ws
    induction ws with
    | nil => exact fun x => FeedKept.refl _
    | cons w ws ih => exact fun x => (audioWord_kept x w).trans (ih _)
  unfold readPayload
  split
  · exact pictures _ s
  · exact kept_modFeed (samples _ _)
  · exact FeedKept.refl _

theorem noteGap_kept (gap : Nat) (x : Feed) : FeedKept x (noteGap gap x) := by
  unfold noteGap
  dsimp only
  repeat' split
  all_goals exact ⟨rfl, rfl, rfl, rfl, rfl, rfl⟩

theorem onParse_kept (k : ParseContext → ParseContext) (x : Feed) : FeedKept x (x.onParse k) :=
  ⟨rfl, rfl, rfl, rfl, rfl, rfl⟩

theorem count_kept (k : Counters → Counters) (x : Feed) : FeedKept x (x.count k) :=
  ⟨rfl, rfl, rfl, rfl, rfl, rfl⟩

theorem kept_parsePosition (f : FeedId) (stamp : Time) (addr : Addr) (bytes : List Byte) (s : State) :
    Kept f s (parsePosition f stamp addr bytes s) := by
  have fail : ∀ x, FeedKept x (failPosition addr x) := fun x => (onParse_kept _ x).trans (countLength_kept 32 _)
  have reject : ∀ x, FeedKept x (rejectHeader addr x) := fun x =>
    ((onParse_kept _ x).trans (count_kept _ _)).trans (countLength_kept 32 _)
  have consume : ∀ x, FeedKept x (consumePayload addr x) := fun x => (onParse_kept _ x).trans (countLength_kept 32 _)
  unfold parsePosition huntPosition headerPosition payloadPosition
  dsimp only
  repeat' split
  · exact FeedKept.refl _
  · exact kept_takeHeader f stamp addr _ s
  · exact FeedKept.trans (kept_modFeed (fail _)) (kept_feedFault f .noLock _)
  · exact kept_modFeed (fail _)
  · exact FeedKept.trans (kept_modFeed (noteGap_kept _ _)) (kept_takeHeader f stamp addr _ _)
  · exact kept_modFeed (reject _)
  · exact (kept_readPayload f bytes s).trans (kept_modFeed (consume _))

theorem kept_parsePositions (f : FeedId) (stamp : Time) (addr : Addr) (l : List (List Byte)) (s : State) :
    Kept f s (parsePositions f stamp addr l s) := by
  induction l generalizing addr s with
  | nil => exact FeedKept.refl _
  | cons b l ih => exact (kept_parsePosition f stamp addr b s).trans (ih _ _)

/-- Parsing an entry keeps its feed's definition, windows, last arrival, P and R. -/
theorem kept_parseEntry (e : TapEntry) (s : State) : Kept e.feed s (parseEntry e s) := by
  unfold parseEntry
  dsimp only
  split
  · refine FeedKept.trans (kept_modFeed ?_) (kept_parsePositions e.feed _ _ _ _)
    unfold breakFeed flagOpen
    split <;>
      exact ⟨by simp [Feed.count, Feed.onParse, Feed.onOpen], by simp [Feed.count, Feed.onParse, Feed.onOpen],
        by simp [Feed.count, Feed.onParse, Feed.onOpen], by simp [Feed.count, Feed.onParse, Feed.onOpen],
        by simp [Feed.count, Feed.onParse, Feed.onOpen], by simp [Feed.count, Feed.onParse, Feed.onOpen]⟩
  · exact kept_parsePositions e.feed _ _ _ _

theorem skipPayload_kept (x : Feed) : FeedKept x (skipPayload x) := by
  unfold skipPayload
  dsimp only
  split <;> exact ⟨by simp, by simp, by simp, by simp, by simp, by simp⟩

/-- An expired loss timeout keeps its feed's definition, windows, last arrival, P and R. -/
theorem kept_expireLoss (f : FeedId) (s : State) : Kept f s (expireLoss f s) := by
  unfold expireLoss lossClose
  dsimp only
  refine Kept.congr ?_ (stageEvent_feed _ _ f)
  split
  · exact kept_modFeed ⟨rfl, rfl, rfl, rfl, rfl, rfl⟩
  · refine FeedKept.trans (FeedKept.trans (kept_modFeed ?_) (kept_modFeed (skipPayload_kept _))) (kept_closeFrame f .lost _)
    exact ⟨rfl, rfl, rfl, rfl, rfl, rfl⟩

end Sys2Proof.Machine
end

