-- ==== Sys2Proof/Laws/Layouts.lean ====
section
/-! SUPPORT. Records as bytes: what a field holds of a record written piece by piece, so that a layout is proved field by
field and no record is unfolded whole. -/

namespace Sys2Proof.Machine

/-- A value in `n` bytes takes `n` bytes. -/
@[simp] theorem leBytes_length : ∀ n v : Nat, (leBytes n v).length = n
  | 0, _ => rfl
  | n + 1, v => by rw [leBytes, List.length_cons, leBytes_length n]

/-- `n` bytes hold a value modulo 256^n. -/
theorem leNat_leBytes : ∀ n v : Nat, leNat (leBytes n v) = v % 256 ^ n
  | 0, v => by rw [leBytes, leNat, Nat.pow_zero, Nat.mod_one]
  | n + 1, v => by
    have whole : 256 ^ (n + 1) = 256 * 256 ^ n := Nat.pow_succ'
    rw [leBytes, leNat, leNat_leBytes n, BitVec.toNat_ofNat, whole]
    exact (Nat.mod_mul (x := v) (a := 256) (b := 256 ^ n)).symm

/-- Zero bytes hold 0. -/
theorem leNat_zeros : ∀ n : Nat, leNat (zeros n) = 0
  | 0 => rfl
  | n + 1 => by
    show 0 + 256 * leNat (zeros n) = 0
    rw [leNat_zeros n]

/-- A field that begins at or beyond the end of a record's first piece lies in the rest. -/
theorem fieldAt_skip {a : List Byte} {offset : Nat} (b : List Byte) (size : Nat) (h : a.length ≤ offset) :
    fieldAt (a ++ b) offset size = fieldAt b (offset - a.length) size := by
  rw [fieldAt, fieldAt, slice, slice, List.drop_append, List.drop_of_length_le h, List.nil_append]

/-- A field that is a record's first piece holds that piece. -/
theorem fieldAt_first (a b : List Byte) : fieldAt (a ++ b) 0 a.length = leNat a := by
  rw [fieldAt, slice, List.drop_zero, List.take_left']
  rfl

end Sys2Proof.Machine
end

