-- ==== Sys2Proof/Laws/RowStore.lean ====
section
/-! SUPPORT. The row buffers as memory: a row reads back as it was written, the bytes beyond it are kept, and every
operation keeps the canonical form of the cells. -/

namespace Sys2Proof.Machine

/-! ### The cells of a row -/

/-- A cell of a row holds the row's byte at its offset, and that byte is not 0. -/
theorem mem_rowCells {base : Nat} {row : List Byte} {c : Host.Cell} (h : c ∈ rowCells base row) :
    ∃ k, c.1 = base + k ∧ row[k]? = some c.2 ∧ c.2 ≠ 0 := by
  induction row generalizing base with
  | nil => simp [rowCells] at h
  | cons b row ih =>
    rw [rowCells] at h
    have tail : c ∈ rowCells (base + 1) row → ∃ k, c.1 = base + k ∧ (b :: row)[k]? = some c.2 ∧ c.2 ≠ 0 := by
      intro m
      obtain ⟨k, h1, h2, h3⟩ := ih m
      exact ⟨k + 1, by omega, by simpa using h2, h3⟩
    split at h
    · exact tail h
    · rename_i hb
      rcases List.mem_cons.mp h with h | h
      · exact ⟨0, by simp [h], by simp [h], by simpa [h] using hb⟩
      · exact tail h

/-- The cells of a row rise strictly. -/
theorem rowCells_sorted (base : Nat) (row : List Byte) : ((rowCells base row).map Prod.fst).Pairwise (· < ·) := by
  induction row generalizing base with
  | nil => exact List.Pairwise.nil
  | cons b row ih =>
    rw [rowCells]
    split
    · exact ih _
    · rw [List.map_cons, List.pairwise_cons]
      refine ⟨fun a ha => ?_, ih _⟩
      obtain ⟨c, hc, rfl⟩ := List.mem_map.mp ha
      obtain ⟨k, h, -⟩ := mem_rowCells hc
      simp only [h]; omega

/-- Reading cells of which none stands at the offset. -/
theorem readCell_none {cells : List Host.Cell} {k : Nat} (h : ∀ c ∈ cells, c.1 ≠ k) : readCell cells k = 0 := by
  have : cells.find? (fun c => decide (c.1 = k)) = none := by simpa using h
  simp only [readCell, this]

/-- Reading past cells of which none stands at the offset. -/
theorem readCell_append {front back : List Host.Cell} {k : Nat} (h : ∀ c ∈ front, c.1 ≠ k) :
    readCell (front ++ back) k = readCell back k := by
  have : front.find? (fun c => decide (c.1 = k)) = none := by simpa using h
  simp only [readCell, List.find?_append, this, Option.none_or]

/-- The cells of a row read as the row, whatever stands behind them at higher offsets. -/
theorem readCell_rowCells (base : Nat) (row : List Byte) (back : List Host.Cell) (k : Nat)
    (hb : ∀ c ∈ back, base + row.length ≤ c.1) (hk : k < row.length) :
    readCell (rowCells base row ++ back) (base + k) = row[k] := by
  induction row generalizing base k with
  | nil => simp at hk
  | cons b row ih =>
    have hb' : ∀ c ∈ back, base + 1 + row.length ≤ c.1 := by
      intro c hc
      have := hb c hc
      simp only [List.length_cons] at this
      omega
    rw [rowCells]
    cases k with
    | zero =>
      split
      · rename_i h0
        rw [readCell_none, List.getElem_cons_zero, h0]
        intro c hc
        rcases List.mem_append.mp hc with hc | hc
        · obtain ⟨j, h, -⟩ := mem_rowCells hc; omega
        · have := hb' c hc; omega
      · simp [readCell]
    | succ k =>
      have hk' : k < row.length := by simpa using hk
      have e : base + (k + 1) = base + 1 + k := by omega
      rw [e, List.getElem_cons_succ]
      split
      · exact ih (base + 1) k hb' hk'
      · rw [← ih (base + 1) k hb' hk', List.cons_append]
        exact readCell_append (front := [(base, b)]) (by simp; omega)

/-! ### Writing a row -/

/-- A row reads back as it was written. -/
theorem readCell_writeRow (row : List Byte) (cells : List Host.Cell) {k : Nat} (h : k < row.length)
    (h' : k < Config.bufferBytes) : readCell (writeRow row cells) k = row[k] := by
  have hl : k < (row.take Config.bufferBytes).length := by rw [List.length_take]; omega
  have := readCell_rowCells 0 (row.take Config.bufferBytes)
    (cells.filter fun c => decide ((row.take Config.bufferBytes).length ≤ c.1)) k (by simp) hl
  rw [Nat.zero_add] at this
  rw [writeRow, this, List.getElem_take]

/-- The bytes of a buffer beyond a row are kept. -/
theorem readCell_writeRow_beyond (row : List Byte) (cells : List Host.Cell) {k : Nat}
    (h : min Config.bufferBytes row.length ≤ k) : readCell (writeRow row cells) k = readCell cells k := by
  rw [← List.length_take] at h
  rw [writeRow, readCell_append]
  · simp only [readCell, List.find?_filter]
    have : (fun c : Host.Cell =>
        decide (decide ((row.take Config.bufferBytes).length ≤ c.1) = true ∧ decide (c.1 = k) = true))
        = fun c => decide (c.1 = k) := by
      funext c
      by_cases hc : c.1 = k
      · simp only [hc, h, decide_true, and_self]
      · simp only [hc, decide_false, Bool.false_eq_true, and_false]
    rw [this]
  · intro c hc hk
    obtain ⟨j, h1, h2, -⟩ := mem_rowCells hc
    have := (List.getElem?_eq_some_iff.mp h2).1
    omega

/-- Writing a row keeps the canonical form. -/
theorem writeRow_wf (row : List Byte) {cells : List Host.Cell} (h : cellsWf cells = true) :
    cellsWf (writeRow row cells) = true := by
  simp only [cellsWf, Bool.and_eq_true, decide_eq_true_eq, List.all_eq_true] at h ⊢
  obtain ⟨hs, ha⟩ := h
  have hlen : (row.take Config.bufferBytes).length ≤ Config.bufferBytes := by
    rw [List.length_take]; omega
  have low : ∀ c ∈ rowCells 0 (row.take Config.bufferBytes),
      c.1 < (row.take Config.bufferBytes).length ∧ c.2 ≠ 0 := by
    intro c hc
    obtain ⟨k, h1, h2, h3⟩ := mem_rowCells hc
    have := (List.getElem?_eq_some_iff.mp h2).1
    exact ⟨by omega, h3⟩
  refine ⟨?_, ?_⟩
  · rw [writeRow, List.map_append, List.pairwise_append]
    refine ⟨rowCells_sorted 0 _, hs.sublist (List.filter_sublist.map _), ?_⟩
    intro a ha' b hb
    obtain ⟨c, hc, rfl⟩ := List.mem_map.mp ha'
    obtain ⟨d, hd, rfl⟩ := List.mem_map.mp hb
    have h1 := (low c hc).1
    have h2 := (List.mem_filter.mp hd).2
    simp only [decide_eq_true_eq] at h2
    omega
  · intro c hc
    rcases List.mem_append.mp hc with hc | hc
    · exact ⟨by have := (low c hc).1; omega, (low c hc).2⟩
    · exact ha c (List.mem_filter.mp hc).1

/-- The buffers after reset are in the canonical form. -/
theorem RowBuffer.reset_wf : cellsWf RowBuffer.reset.cells = true := by decide

/-! ### What keeps the buffers' bytes -/

@[simp] theorem RowStore.sweep_cells0 (r : RowStore) : r.sweep.buffer0.cells = r.buffer0.cells := rfl
@[simp] theorem RowStore.sweep_cells1 (r : RowStore) : r.sweep.buffer1.cells = r.buffer1.cells := rfl
@[simp] theorem RowStore.change_cells0 (w : RowItem → Bool) (g : RowItem → RowItem) (r : RowStore) :
    (r.change w g).buffer0.cells = r.buffer0.cells := rfl
@[simp] theorem RowStore.change_cells1 (w : RowItem → Bool) (g : RowItem → RowItem) (r : RowStore) :
    (r.change w g).buffer1.cells = r.buffer1.cells := rfl
@[simp] theorem RowStore.markPart_buffer0 (ref : RowRef) (x : PartState) (r : RowStore) :
    (r.markPart ref x).buffer0 = r.buffer0 := rfl
@[simp] theorem RowStore.markPart_buffer1 (ref : RowRef) (x : PartState) (r : RowStore) :
    (r.markPart ref x).buffer1 = r.buffer1 := rfl

@[simp] theorem RowStore.buffer_setBuffer (r : RowStore) (b : BufferId) (x : RowBuffer) :
    (r.setBuffer b x).buffer b = x := by cases b <;> rfl
@[simp] theorem RowStore.buffer_setBuffer_other (r : RowStore) (b : BufferId) (x : RowBuffer) :
    (r.setBuffer b x).buffer b.other = r.buffer b.other := by cases b <;> rfl
@[simp] theorem RowStore.setBuffer_items (r : RowStore) (b : BufferId) (x : RowBuffer) :
    (r.setBuffer b x).items = r.items := by cases b <;> rfl

/-- Both buffers of a feed in the canonical form. -/
abbrev RowStore.wf (r : RowStore) : Prop := cellsWf r.buffer0.cells = true ∧ cellsWf r.buffer1.cells = true

/-- Replacing a buffer's use count, or its cells by canonical ones, keeps the form. -/
theorem RowStore.setBuffer_wf {r : RowStore} (b : BufferId) {x : RowBuffer} (h : r.wf) (hx : cellsWf x.cells = true) :
    (r.setBuffer b x).wf := by
  cases b
  · exact ⟨hx, h.2⟩
  · exact ⟨h.1, hx⟩

/-- The cells of either buffer of a canonical row store are canonical. -/
theorem RowStore.buffer_wf {r : RowStore} (b : BufferId) (h : r.wf) : cellsWf (r.buffer b).cells = true := by
  cases b
  · exact h.1
  · exact h.2

/-- A row taken into a buffer keeps the form. -/
theorem fillBuffer_wf (b : BufferId) (row : List Byte) {x : Feed} (h : x.rows.wf) : (fillBuffer b row x).rows.wf :=
  RowStore.setBuffer_wf b h (writeRow_wf row (RowStore.buffer_wf b h))

/-- One use more of a buffer keeps the form. -/
theorem holdBuffer_wf (b : BufferId) {x : Feed} (h : x.rows.wf) : (holdBuffer b x).rows.wf :=
  RowStore.setBuffer_wf b h (RowStore.buffer_wf b h)

/-- Every other row-store operation keeps the form. -/
theorem RowStore.change_wf (w : RowItem → Bool) (g : RowItem → RowItem) {r : RowStore} (h : r.wf) : (r.change w g).wf := h
theorem RowStore.sweep_wf {r : RowStore} (h : r.wf) : r.sweep.wf := h
theorem RowStore.markPart_wf (ref : RowRef) (x : PartState) {r : RowStore} (h : r.wf) : (r.markPart ref x).wf := h

end Sys2Proof.Machine
end

