-- ==== Sys2Proof/WellFormed.lean ====
section
/-! DEFINITION. Which operands the link can present: a fabric request touches at least one byte and lies in
the 40-bit address space, and a read answer carries at least one byte. The type of `Instr` already
bounds feeds, tags and straps. The machine gives every term a meaning, well-formed or not. -/

namespace Sys2Proof

/-- A request touches at least one byte. -/
def FabricRequest.nonempty (r : FabricRequest) : Bool := decide (0 < r.body.length)

/-- A request's last byte lies in the 40-bit address space (00_scope, Addresses). -/
def FabricRequest.inSpace (r : FabricRequest) : Bool := decide (r.addr.toNat + r.body.length ≤ 2 ^ 40)

/-- A read answer carries data (R141). -/
def Answer.carriesData : Answer → Bool
  | .write _ => true
  | .read data _ => !data.isEmpty

/-- The checks on one command's operands. -/
def Instr.wellFormed : Instr → Bool
  | .fabricRequestAccept r => r.nonempty && r.inSpace
  | .forwardAnswer _ a => a.carriesData
  | .powerOnReset _ | .forwardIssue | .insertionIssue | .insertionAnswer _ _ | .orphanedAnswer _ _
  | .parseTapEntry | .lossTimeoutExpiry _ | .flushTimeoutExpiry | .batchStart | .noticeEntryMake
  | .rowPartQueue _ | .setCatalogue | .defineFeed | .startFeed | .suspendFeed | .resumeFeed
  | .retireFeedAtFrameEnd | .retireFeedNow | .restartFeed | .reportFeed | .resetEngine
  | .unknownCommand | .commandDiscard | .reportNoticeStage | .drainExit _ | .timeBaseTick => true

end Sys2Proof
end

