-- ==== Sys2Proof/Tests/Slice0.lean ====
section
/-! SUPPORT. Small tests on fixed values: the manual's own examples, the checks of WellFormed, and for every statement
with hypotheses a named state that meets them. -/

namespace Sys2Proof.Tests

open Sys2Proof Sys2Proof.Machine

set_option Elab.async false

/-! ### A part in use

Straps 3, so that the control block begins at 0x0300000000; the catalogue of 64 entries at 0x4000200000; feed 3 with
tag 7 and its 64 KiB ring at 0x2004000000 (the examples of chapters 1.7 and 7.2). -/

/-- What step `c` leaves of `s`. -/
def after (c : Instr) (s : State) : State :=
  match exec c s with
  | .next t => t
  | .fault _ => s
  | .refused _ => s

/-- Feed 3's definition. -/
def demoDef : FeedDef :=
  { tag := 7, ingestBase := 0x2004000000, ingestSize := 65536, browseBase := 0x3000100000, slotSize := 4096,
    slotCount := 4, decimation := 4, legalClamp := true, rateCode := 3, priority := 1, lossTimeout := 40 }

/-- Feed 3, ACTIVE and AT HEADER. -/
def demoFeed : Feed := { Feed.reset with
  life := { Lifecycle.reset with state := .active, defn := some demoDef, presence := .present, lastArrival := 1000 },
  ingest := some { base := 0x2004000000, mask := 0xFFFFFF0000 },
  browse := some { base := 0x3000100000, limit := 0x3000103FFF },
  parse := { ParseContext.reset with state := .atHeader, cursor := 0x2004000100, expectedSeq := 0x0010 } }

/-- The part with feed 3 in a given condition. -/
def demo (x : Feed) : State := { State.reset.setFeed 3 x with
  straps := 3, timeBase := 50000,
  catalogue := { Catalogue.reset with
    defn := some { base := 0x4000200000, entries := 64, trigger := 4, flushMs := 20 },
    region := some { base := 0x4000200000, limit := 0x4000200FFF } } }

/-- Feed 3 with another lifecycle state. -/
def inState (v : FeedState) (x : Feed) : Feed := { x with life := { x.life with state := v } }

/-- Feed 3 with another parse state. -/
def parsing (v : ParseState) (x : Feed) : Feed := { x with parse := { x.parse with state := v } }

/-- A write of bytes with all lanes enabled. -/
def whole (bytes : List Byte) : Body := .write (bytes.map fun b => { data := b, enable := true })

/-- A write request of `n` zero bytes. -/
def writeReq (a : Addr) (n : Nat) : FabricRequest := { addr := a, body := whole (zeros n), master := 9 }

/-- A read request. -/
def readReq (a : Addr) (n : Nat) : FabricRequest := { addr := a, body := .read n, master := 9 }

/-- An entry of the insertion queue. -/
def entry (src : Source) (kind : EntryKind) (row : Option RowRef) (a : Addr) (n : Nat) (data : DataRef)
    (age : Nat) (state : EntryState) : InsEntry :=
  { source := src, kind := kind, row := row, addr := a, length := n, lanes := .all, data := data, attempt := 1,
    age := age, state := state }

/-- The part with one entry ISSUED on tag 5. -/
def issued (src : Source) (kind : EntryKind) (row : Option RowRef) (data : DataRef) (x : Feed) : State := { demo x with
  tags := (demo x).tags.set 5 .insertion,
  insQ := [entry src kind row 0x0300001000 32 data 4 (.issued 5)], nextAge := 5 }

/-- The entry of `issued`. -/
def theEntry (src : Source) (kind : EntryKind) (row : Option RowRef) (data : DataRef) : InsEntry :=
  entry src kind row 0x0300001000 32 data 4 (.issued 5)

/-- A command record of 64 bytes from its first ones. -/
def record (bytes : List Byte) : Command := { bytes := bytes ++ zeros (64 - bytes.length) }

/-- The part with a command at the head of its queue. -/
def heading (c : Command) (x : Feed) : State := { demo x with commands := { queue := [c], phase := .ready } }

/-- The 32 bytes of an essence packet header for tag 7, its check word bringing the sum to zero (R2, R3). -/
def header (kind : Byte) (sequence len b c : Nat) (timecode : List Byte) : List Byte :=
  let body := leBytes 2 0xA55C ++ [kind, 7] ++ leBytes 2 sequence ++ zeros 2 ++ leBytes 4 len ++ timecode
    ++ leBytes 2 b ++ leBytes 2 c ++ zeros 10
  body ++ leBytes 2 (65536 - (words16 body).sum % 65536)

/-- The part with one entry in the tap queue, at feed 3's cursor. -/
def tapped (bytes : List Byte) (x : Feed) : State := { demo x with
  tapQ := [{ feed := 3, addr := 0x2004000100, data := bytes, stamp := 49000, afterMiss := false }] }

/-- A frame record of feed 3, OPEN, with W = 64 and H = 16. -/
def openRecord (slot : Option Nat) (reason : BrowseReason) : FrameRecord :=
  { serial := 4, timecode := ⟨0, 0, 0, 0⟩, openTime := 40000, ingestAddr := 0x2004000000, frameLength := 32,
    width := 64, height := 16, slot := slot, reason := reason, rowsQueued := 0, rowsAnswered := 0,
    linesReceived := 8, lastLine := some 15, linesMissing := 0, conditions := 0, sequenceGaps := 0,
    peaks := Vector.replicate 8 0, untrackedBefore := 0, state := .opened }

/-- Feed 3 with a tracked frame open. -/
def framing (r : FrameRecord) (x : Feed) : Feed :=
  { x with frame := { x.frame with openFrame := .tracked, nextSerial := 5, records := [r] } }

/-- A row write list item with one part. -/
def item (state : PartState) : RowItem :=
  { ident := 2, serial := 4, band := 0, buffer := .zero, addr := 0x3000100040, length := 32,
    parts := [{ index := 0, offset := 0, length := 32, state := state }], standing := .live }

/-- Feed 3 with one row write. -/
def writing (state : PartState) (x : Feed) : Feed :=
  { x with rows := { x.rows with buffer0 := { x.rows.buffer0 with useCount := 1 }, items := [item state] } }

/-- An index record of feed 3. -/
def indexed : IndexRecord := indexRecord 3 demoDef (openRecord none .suspended)

/-- The part with `n` index records staged at time 30000. -/
def staged (n : Nat) : State := { demo demoFeed with catalogue := { (demo demoFeed).catalogue with
  staging := List.replicate n { record := indexed, time := 30000 } } }

/-- A notice. -/
def notice : Notice := { time := 49000, lost := 0, body := .feedRestored 3 49000 }

/-- The part with `n` notices staged. -/
def noticed (n : Nat) : State := { demo demoFeed with
  notices := { (demo demoFeed).notices with staging := List.replicate n notice } }

/-! ### WellFormed refuses what the link cannot present -/

theorem test_wellFormed_nonempty : (Instr.fabricRequestAccept (readReq 0 0)).wellFormed = false := by decide
theorem test_wellFormed_inSpace : (Instr.fabricRequestAccept (readReq 0xFFFFFFFFE0 33)).wellFormed = false := by decide
theorem test_wellFormed_carriesData : (Instr.forwardAnswer 0 (.read [] .ok)).wellFormed = false := by decide
theorem test_wellFormed_ok : (Instr.fabricRequestAccept (readReq 0xFFFFFFFFE0 32)).wellFormed = true := by decide

/-! ### The manual's examples -/

/-- Chapter 1.1, the check word: the LINES header whose check word is 0x528D, byte by byte. -/
theorem test_header_check_word :
    readHeader 7 ([0x5C, 0xA5, 0x02, 0x07, 0x10, 0x00, 0x04, 0x00, 0x00, 0x01] ++ zeros 6 ++ [0x01, 0x00]
      ++ zeros 12 ++ [0x8D, 0x52])
      = some { kind := .lines, sequence := 0x0010, a := 4, len := 256, timecode := ⟨0, 0, 0, 0⟩, b := 1, c := 0 } := by
  decide +kernel

/-- The same header with one bit changed is invalid. -/
theorem test_header_bit_changed :
    readHeader 7 ([0x5C, 0xA5, 0x02, 0x07, 0x11, 0x00, 0x04, 0x00, 0x00, 0x01] ++ zeros 6 ++ [0x01, 0x00]
      ++ zeros 12 ++ [0x8D, 0x52]) = none := by
  decide +kernel

/-- Chapter 2.3, OPENs 1 to 5 of the timecode example. -/
theorem test_timecode_example :
    checkTimecode 3 none ⟨28, 59, 10, 0⟩ = ⟨⟨28, 59, 10, 0⟩, none, some ⟨29, 59, 10, 0⟩⟩
      ∧ checkTimecode 3 (some ⟨29, 59, 10, 0⟩) ⟨29, 59, 10, 0⟩ = ⟨⟨29, 59, 10, 0⟩, none, some ⟨2, 0, 11, 0⟩⟩
      ∧ checkTimecode 3 (some ⟨2, 0, 11, 0⟩) ⟨0, 0, 11, 0⟩ = ⟨⟨2, 0, 11, 0⟩, some .tcSubstituted, some ⟨3, 0, 11, 0⟩⟩
      ∧ checkTimecode 3 (some ⟨3, 0, 11, 0⟩) ⟨5, 0, 11, 0⟩ = ⟨⟨5, 0, 11, 0⟩, some .tcJump, some ⟨6, 0, 11, 0⟩⟩
      ∧ checkTimecode 3 (some ⟨6, 0, 11, 0⟩) ⟨0, 0, 0, 25⟩
        = ⟨⟨6, 0, 11, 0⟩, some .tcSubstituted, some ⟨7, 0, 11, 0⟩⟩ := by
  decide +kernel

/-- Chapter 2.2: the three geometries of the browse decision, D = 4 and a slot of 262,144 bytes. -/
theorem test_browse_decision :
    browseSize 4 1920 1080 = 259264 ∧ geometryUsable 4 1920 1080 = true ∧ geometryUsable 4 1916 1080 = false
      ∧ browseSize 4 3840 2160 = 1036864 := by
  decide +kernel

/-- Chapter 3: the values of the rounding examples, and of the four-band example under the clamp. -/
theorem test_band_values :
    bandValue 4 3 6208 = 129 ∧ bandValue 4 4 1624 = 25 ∧ bandValue 4 4 16368 = 255
      ∧ legalValue true 16 235 (bandValue 4 4 16368) = 235 := by
  decide +kernel

/-- Chapter 4.6: the four release writes across the wrap. -/
theorem test_release_wrap :
    countTaken 1 4294967294 3 = true ∧ countTaken 5 1 3 = false ∧ countTaken 1 1 3 = false
      ∧ countTaken 3 1 3 = true := by
  decide +kernel

/-- Chapter 5.9: the batch sizes at 5,019,000, at 5,033,000 and after the consumer write. -/
theorem test_batch_sizes :
    batchSize { (staged 4).catalogue with produced := 58, consumed := 10 } ⟨0x4000200000, 64, 4, 20⟩ = 4
      ∧ batchSize { (staged 4).catalogue with produced := 62, consumed := 10 } ⟨0x4000200000, 64, 4, 20⟩ = 2
      ∧ batchSize { (staged 32).catalogue with produced := 1000, consumed := 944 } ⟨0x4000200000, 64, 16, 5⟩ = 8 := by
  decide +kernel

/-- Chapter 7.2: the classes of the example requests, and the one that breaks the 4 KiB rule. -/
theorem test_classes :
    classify (demo demoFeed) 0x0300000040 = .control ∧ classify (demo demoFeed) 0x200400FF80 = .ingest 3
      ∧ classify (demo demoFeed) 0x3000101000 = .browse 3 ∧ classify (demo demoFeed) 0x4000200E80 = .catalogue
      ∧ classify (demo demoFeed) 0x2004010000 = .other ∧ keepsRule (writeReq 0x2004000FE0 64) = false := by
  decide +kernel

/-- Chapter 8.3: of the five entries the notice is issued first, though it is the youngest. -/
theorem test_choice_order :
    let at' (p : Nat) : Feed := { demoFeed with life := { demoFeed.life with defn := some { demoDef with priority := p } } }
    (insertionCandidate { (demo (at' 1)).setFeed 5 (at' 3) with insQ := [
        entry (.feed 3) .row none 0 32 (.fixed []) 40 .queued, entry (.feed 3) .publishWord none 0 32 (.fixed []) 41 .queued,
        entry (.feed 5) .header none 0 64 (.fixed []) 44 .queued, entry .catalogue .batch none 0 64 (.fixed []) 45 .queued,
        entry .notice .notice none 0 32 (.fixed []) 47 .queued] }).map InsEntry.age = some 47 := by
  decide +kernel

/-- Chapter 4.1: a row crosses a 4 KiB boundary when its offset in the block is above 4096 less the pitch. -/
theorem test_row_parts :
    rowParts 3136 960 = [{ index := 0, offset := 0, length := 960, state := .waiting }]
      ∧ rowParts 3168 960 = [{ index := 0, offset := 0, length := 928, state := .waiting },
          { index := 1, offset := 928, length := 32, state := .waiting }] := by
  decide +kernel

/-! ### Witnesses: the hypotheses of each statement, met

One theorem for each statement that has hypotheses, named after it; each conjunct is a clause. -/

theorem test_StepRunsFront :
    { demo demoFeed with pending := [.timeBaseTick, .batchStart] }.pending = .timeBaseTick :: [Instr.batchStart]
      ∧ State.reset.pending = [] := by decide +kernel

theorem test_OutsideKept : exec .timeBaseTick (demo demoFeed) = .next (after .timeBaseTick (demo demoFeed))
    ∧ (after .timeBaseTick (demo demoFeed)).timeBase = 50001 := by
  exact ⟨rfl, by decide +kernel⟩

theorem test_AcceptForwards :
    (demo demoFeed).forwardQ.length < 32 ∧ keepsRule (writeReq 0x2004010000 32) = true
      ∧ classify (demo demoFeed) 0x2004010000 = .other ∧ classify (demo demoFeed) 0x4000200000 = .catalogue
      ∧ classify (demo (parsing .idle demoFeed)) 0x200400FFE0 = .ingest 3
      ∧ ((demo (parsing .idle demoFeed)).feed 3).parse.state = .idle
      ∧ 32 ≤ (List.replicate 32 (readReq 0 32)).length
      ∧ (captureOf (demo demoFeed) (writeReq 0x0300000040 64)).isSome = true := by
  decide +kernel

theorem test_AcceptCaptures :
    BitVec.ofNat 40 ((demo demoFeed).straps.toNat * 4294967296 + 64 * 0) = 0x0300000000
      ∧ BitVec.ofNat 40 ((demo demoFeed).straps.toNat * 4294967296 + 64 * 31) = 0x03000007C0
      ∧ captureOf (demo demoFeed) (writeReq 0x03000007C0 64) = some { bytes := zeros 64 }
      ∧ captureOf (demo demoFeed) (writeReq 0x0300000800 64) = none
      ∧ (zeros 64).length = 64 ∧ (demo demoFeed).forwardQ.length < 32
      ∧ (demo demoFeed).commands.queue.length < 8
      ∧ (record [0x06, 3, 0x36, 0x12, 2]).serial = 0x1236 ∧ (record [0x06, 3, 0x36, 0x12, 2]).retireMode = some .now := by
  decide +kernel

theorem test_IngestWrite :
    keepsRule (writeReq 0x200400FF80 128) = true ∧ classify (demo demoFeed) 0x200400FF80 = .ingest 3
      ∧ ((demo demoFeed).feed 3).parse.state ≠ .idle ∧ (demo demoFeed).forwardQ.length < 32
      ∧ ((after (.fabricRequestAccept (writeReq 0x200400FF80 128)) (demo demoFeed)).tapQ.length = 1) := by
  decide +kernel

theorem test_BrokenWrite :
    let away (x : Feed) : Feed := { x with life := { x.life with presence := .absent } }
    let two : State := (demo (away demoFeed)).setFeed 5
      { away demoFeed with ingest := some { base := 0x2004010000, mask := 0xFFFFFF0000 } }
    keepsRule (writeReq 0x2004000FE0 64) = false ∧ (demo demoFeed).forwardQ.length < 32
      ∧ ((after (.fabricRequestAccept (writeReq 0x2004000FE0 64)) (demo demoFeed)).feed 3).life.counters.tapMisses = 1
      ∧ keepsRule (writeReq 0x200400FFE0 64) = false
      ∧ (after (.fabricRequestAccept (writeReq 0x200400FFE0 64)) two).notices.staging.map Notice.body
        = [.feedRestored 3 50000, .feedRestored 5 50000]
      ∧ (after (.fabricRequestAccept (writeReq 0x200400FFE0 64)) { two with notices := (noticed 7).notices }).notices.lost
        = 1 := by
  decide +kernel

theorem test_IntrudingWrite :
    keepsRule (writeReq 0x3000101000 32) = true ∧ classify (demo demoFeed) 0x3000101000 = .browse 3
      ∧ (demo demoFeed).forwardQ.length < 32
      ∧ ((after (.fabricRequestAccept (writeReq 0x3000101000 32))
          (demo (framing (openRecord (some 1) .none) demoFeed))).feed 3).frame.records.map FrameRecord.conditions
        = [0x1000] := by
  decide +kernel

theorem test_ControlWriteSnooped :
    keepsRule (writeReq 0x0300000800 32) = true ∧ inControl (demo demoFeed) 0x0300000800 = true
      ∧ captureOf (demo demoFeed) (writeReq 0x0300000800 32) = none ∧ (demo demoFeed).forwardQ.length < 32
      ∧ keepsRule (writeReq 0x0300000040 128) = true
      ∧ captureOf (demo demoFeed) (writeReq 0x0300000040 128) = none
      ∧ snooped (demo demoFeed) 0x0300000840 ((zeros 12 ++ [1, 2, 3, 4]).map fun b => ⟨b, true⟩) 0x084C = some 0x04030201
      ∧ snooped (demo demoFeed) 0x0300000840 ((zeros 12 ++ [1, 2, 3, 4]).map fun b => ⟨b, decide (b ≠ 2)⟩) 0x084C = none
      ∧ snooped (demo demoFeed) 0x0300000840 (List.replicate 32 ⟨0, true⟩) 0x0804 = none := by
  decide +kernel

/-- Feed 3 with P = 3 and R = 2^32 − 2, the counts of the example of chapter 4.6. -/
def wrapped : Feed := { demoFeed with publisher := { demoFeed.publisher with
  assigned := 3, published := 3, released := 4294967294 } }

theorem test_ReleaseTest :
    Feed.reset.life.state = .vacant ∧ wrapped.life.state ≠ .vacant
      ∧ (0 < ((4294967295 : Count) - wrapped.publisher.released).toNat
        ∧ ((3 : Count) - wrapped.publisher.released).toNat ≤ (wrapped.publisher.published - wrapped.publisher.released).toNat)
      ∧ ¬ (0 < ((4294967294 : Count) - wrapped.publisher.released).toNat)
      ∧ ¬ (((4 : Count) - wrapped.publisher.released).toNat ≤ (wrapped.publisher.published - wrapped.publisher.released).toNat) := by
  decide +kernel

/-- The part with both rings at their windows' edges: 64 notices and 64 records unconsumed. -/
def ringsFull : State := { demo demoFeed with
  notices := { (demo demoFeed).notices with produced := 64 },
  catalogue := { (demo demoFeed).catalogue with produced := 64 } }

theorem test_ConsumerTests :
    let held : State := { ringsFull with catalogue := { ringsFull.catalogue with staging := (staged 4).catalogue.staging } }
    (0 < ((1 : Count) - ringsFull.notices.consumed).toNat
        ∧ ((64 : Count) - ringsFull.notices.consumed).toNat ≤ (ringsFull.notices.produced - ringsFull.notices.consumed).toNat)
      ∧ ¬ (((65 : Count) - ringsFull.notices.consumed).toNat ≤ (ringsFull.notices.produced - ringsFull.notices.consumed).toNat)
      ∧ (noticeConsumer 64 ringsFull).attention = false ∧ ringsFull.catalogue.defn ≠ none
      ∧ (noticeConsumer 63 ringsFull).attention = true
      ∧ (noticeConsumer 1 { ringsFull with notices := { ringsFull.notices with staging := [notice] } }).insQ.length = 1
      ∧ (catalogueConsumer 64 ringsFull).catalogue.consumed = 64
      ∧ (catalogueConsumer 65 ringsFull).catalogue.consumed = 0
      ∧ (catalogueConsumer 2 held).catalogue.batch = some ⟨0, 2⟩ := by
  decide +kernel

/-- The part with a read waiting and one QUEUED entry that the read's range does or does not meet. -/
def waiting (a : Addr) : State := { demo demoFeed with
  forwardQ := [readReq a 32], insQ := [entry .notice .notice none 0x0300001000 32 (.fixed notice.bytes) 4 .queued],
  nextAge := 5 }

theorem test_ForwardIssue :
    (waiting 0x0300001020).forwardQ = readReq 0x0300001020 32 :: []
      ∧ (∀ e ∈ (waiting 0x0300001020).insQ, e.state = .queued →
        rangesShare 0x0300001020 32 e.addr.toNat e.length = false)
      ∧ (waiting 0x0300001020).lowestTag 0 ∧ (waiting 0x0300001020).credit < 8
      ∧ { waiting 0x0300001020 with tags := (waiting 0x0300001020).tags.set 0 .insertion }.lowestTag 1 := by
  decide +kernel

theorem test_NoIssueUnderHold :
    let s := waiting 0x0300001020
    ((∃ r rest e, (waiting 0x030000101F).forwardQ = r :: rest ∧ e ∈ (waiting 0x030000101F).insQ ∧ e.state = .queued
        ∧ rangesMeet r.addr.toNat r.body.length e.addr.toNat e.length)
      ∧ (demo demoFeed).forwardQ = [] ∧ (∀ u : Tag, (Vector.replicate 128 TagState.insertion)[u] ≠ .free))
      ∧ (∃ e ∈ s.insQ, e.state = .queued) ∧ s.credit < 8 ∧ (demo demoFeed).insQ = []
      ∧ rangesShare 0x0300001020 32 0x0300001000 32 = false
      ∧ after .insertionIssue s = s ∧ (after .insertionIssue { s with credit := 8 }).credit = 0
      ∧ (after .forwardIssue { s with credit := 8 }).forwardQ = s.forwardQ ∧ (after .forwardIssue s).forwardQ = [] :=
  ⟨⟨⟨readReq 0x030000101F 32, [], entry .notice .notice none 0x0300001000 32 (.fixed notice.bytes) 4 .queued,
    rfl, by decide +kernel, rfl, 0x030000101F, by decide +kernel⟩, rfl, by decide +kernel⟩, by decide +kernel⟩

theorem test_ForwardAnswer : (Answer.write .error = .write .error ∧ Answer.read (zeros 32) .ok = .read (zeros 32) .ok) ∧
    { demo demoFeed with tags := (demo demoFeed).tags.set 7 (.forward 9 .write) }.tags[7] = .forward 9 .write := by
  decide +kernel

/-- The part with one QUEUED entry of a kind, and the credit count at 8. -/
def queued (e : InsEntry) : State := { demo (writing .queued demoFeed) with insQ := [e], nextAge := 5, credit := 8 }

/-- A QUEUED entry. -/
def waitingEntry (src : Source) (kind : EntryKind) (row : Option RowRef) (data : DataRef) : InsEntry :=
  entry src kind row 0x0300001000 32 data 4 .queued

theorem test_InsertionIssue :
    let row := waitingEntry (.feed 3) .row (some ⟨2, 0⟩) (.buffer .zero 0)
    let word : InsEntry := { waitingEntry .notice .noticeWord none (.word 0x04030201) with lanes := .four 4 }
    let plain := waitingEntry .notice .notice none (.fixed notice.bytes)
    (∀ e ∈ [row, word, plain], (queued e).agesRise ∧ e ∈ (queued e).insQ ∧ e.state = .queued
        ∧ (∀ x ∈ (queued e).insQ, x.state = .queued → e.source = x.source ∧ e.age ≤ x.age)
        ∧ (queued e).lowestTag 0 ∧ (queued e).credit = 8)
      ∧ (row.kind = .row ∧ row.source = .feed 3 ∧ row.row = some ⟨2, 0⟩) ∧ word.word = some .notice
      ∧ plain.kind = .notice
      ∧ (after .insertionIssue (queued word)).memPort = some ⟨0, 0x0300001000,
        .inserted (List.replicate 4 none ++ [some 1, some 2, some 3, some 4] ++ List.replicate 24 none)⟩ := by
  decide +kernel

theorem test_ErrorRetries :
    (∀ e ∈ [theEntry (.feed 3) .row (some ⟨2, 0⟩) (.buffer .zero 0), theEntry .notice .noticeWord none (.word 1),
        theEntry .notice .notice none (.fixed notice.bytes)],
      { demo demoFeed with tags := (demo demoFeed).tags.set 5 .insertion, insQ := [e] }.inFlight e 5 ∧ e.attempt < 4)
      ∧ (theEntry .notice .noticeWord none (.word 1)).word = some .notice ∧ (demo demoFeed).engine = .normal := by
  decide +kernel

/-- The part with one entry ISSUED on tag 5 at its fourth attempt. -/
def lastTry (e : InsEntry) (x : Feed) : State := { demo x with
  tags := (demo x).tags.set 5 .insertion, insQ := [{ e with attempt := 4 }], nextAge := 5 }

theorem test_FinalFailureFaultsFeed :
    let e := theEntry (.feed 3) .publishWord none (.word 1)
    let drain : Feed := { inState .draining demoFeed with
      life := { (inState .draining demoFeed).life with drain := some ⟨0x0102, 65535⟩ } }
    let row : InsEntry := { theEntry (.feed 3) .row (some ⟨2, 0⟩) (.buffer .zero 0) with attempt := 4 }
    let other : InsEntry := entry (.feed 3) .header none 0x3000100000 64 (.fixed []) 6 (.issued 6)
    let two : State := { demo (writing .issued demoFeed) with
      tags := ((demo demoFeed).tags.set 5 .insertion).set 6 .insertion, insQ := [row, other], nextAge := 7 }
    (lastTry e demoFeed).inFlight { e with attempt := 4 } 5 ∧ (lastTry e demoFeed).engine = .normal
      ∧ kindFits e.source e.kind = true ∧ demoFeed.life.state = .active
      ∧ (inState .suspended demoFeed).life.state = .suspended
      ∧ (lastTry e drain).inFlight { e with attempt := 4 } 5 ∧ drain.life.drain = some ⟨0x0102, 65535⟩
      ∧ ((after (.insertionAnswer 5 .error) (lastTry e demoFeed)).feed 3).life.state = .faulted
      ∧ two.inFlight row 5 ∧ kindFits row.source row.kind = true
      ∧ (other ∈ two.insQ ∧ other ≠ row ∧ other.state = .issued 6 ∧ ∀ z ∈ two.insQ, z.state = .issued 6 → z = other)
      ∧ (after (.insertionAnswer 5 .error) two).tags[6] = .orphaned ⟨.feed 3, .header, none⟩
      ∧ ((after (.insertionAnswer 5 .error) two).feed 3).rows.items = []
      ∧ ((after (.insertionAnswer 5 .error) two).feed 3).rows.buffer0.useCount = 0 := by
  decide +kernel

theorem test_FinalFailureFailsEngine :
    (∀ e ∈ [theEntry .catalogue .batch none (.fixed []), theEntry .notice .notice none (.fixed []),
        theEntry .report .statusRecord none (.fixed [])],
      (lastTry e demoFeed).inFlight { e with attempt := 4 } 5 ∧ (lastTry e demoFeed).engine = .normal)
      ∧ (lastTry (theEntry .notice .notice none (.fixed [])) demoFeed).commands.phase = .ready
      ∧ (after (.insertionAnswer 5 .error)
          (lastTry (theEntry .notice .notice none (.fixed [])) demoFeed)).engine = .controlPathFailed
      ∧ ((after (.insertionAnswer 5 .error)
          (lastTry (theEntry .notice .notice none (.fixed [])) (writing .queued demoFeed))).feed 3).rows.items = []
      ∧ ((after (.insertionAnswer 5 .error)
          (lastTry (theEntry .notice .notice none (.fixed [])) (writing .issued demoFeed))).feed 3).rows.items
        = [item .issued] := by
  decide +kernel

theorem test_AnswerInFailedEngine :
    let failed (s : State) : State := { s with engine := .controlPathFailed }
    let rowRef : Option RowRef := some ⟨2, 0⟩
    (failed (issued .catalogue .batch none (.fixed []) demoFeed)).inFlight (theEntry .catalogue .batch none (.fixed [])) 5
      ∧ (theEntry .catalogue .batch none (.fixed [])).kind = .batch
      ∧ (failed (issued .notice .noticeWord none (.word 1) demoFeed)).inFlight (theEntry .notice .noticeWord none (.word 1)) 5
      ∧ (theEntry .notice .noticeWord none (.word 1)).word = some .notice
      ∧ (failed (issued (.feed 3) .row rowRef (.buffer .zero 0) (writing .issued demoFeed))).inFlight
        (theEntry (.feed 3) .row rowRef (.buffer .zero 0)) 5
      ∧ ((after (.insertionAnswer 5 .error)
          (failed (issued (.feed 3) .row rowRef (.buffer .zero 0) (writing .issued demoFeed)))).feed 3).rows.items = [] := by
  decide +kernel

/-- A SEALING record in slot 1, and an OPEN one behind it. -/
def sealing : Feed := { demoFeed with
  frame := { demoFeed.frame with
    openFrame := .tracked, nextSerial := 6,
    records := [{ openRecord (some 1) .none with state := .sealing },
      { openRecord none .suspended with serial := 5 }] },
  publisher := { demoFeed.publisher with assigned := 1 } }

/-- A SEALING head in slot 1, a ready record without browse behind it, and a ready one in slot 2. -/
def train : List FrameRecord :=
  [{ openRecord (some 1) .none with state := .sealing }, { openRecord none .suspended with serial := 5, state := .closed },
   { openRecord (some 2) .none with serial := 6, state := .closed }]

theorem test_HeaderAnswered :
    let ready : Feed := { sealing with frame := { sealing.frame with openFrame := .none, records := train } }
    let e := theEntry (.feed 3) .header none (.fixed [])
    let t := after (.insertionAnswer 5 .ok) (issued (.feed 3) .header none (.fixed []) ready)
    (∀ x ∈ [sealing, ready], (issued (.feed 3) .header none (.fixed []) x).inFlight e 5
        ∧ (issued (.feed 3) .header none (.fixed []) x).engine = .normal
        ∧ (x.frame.records.head?.map FrameRecord.state) = some .sealing)
      ∧ (∀ q ∈ sealing.frame.records.tail.head?, q.unready)
      ∧ ready.frame.records = train[0] :: [train[1]] ++ [train[2]]
      ∧ (∀ q ∈ [train[1]], q.slot = none ∧ q.state = .closed) ∧ train[2].slot ≠ none
      ∧ (t.feed 3).frame.records.map FrameRecord.state = [.sealing]
      ∧ t.insQ.map InsEntry.kind = [.publishWord, .header] ∧ t.catalogue.staging.length = 2
      ∧ (t.feed 3).life.counters.browseAbsent = 1 := by
  decide +kernel

theorem test_BatchAnswered :
    let s (n : Nat) : State := { issued .catalogue .batch none (.fixed []) demoFeed with catalogue :=
      { (staged n).catalogue with batch := some ⟨58, 4⟩, produced := 58 } }
    (∀ n ∈ [4, 8], (s n).inFlight (theEntry .catalogue .batch none (.fixed [])) 5 ∧ (s n).engine = .normal
        ∧ (s n).catalogue.batch = some ⟨58, 4⟩)
      ∧ (after (.insertionAnswer 5 .ok) (s 4)).catalogue.produced = 62
      ∧ (after (.insertionAnswer 5 .ok) (s 4)).catalogue.word = .queued
      ∧ (after (.insertionAnswer 5 .ok) (s 4)).catalogue.batch = none
      ∧ (after (.insertionAnswer 5 .ok) (s 8)).catalogue.batch = some ⟨62, 2⟩ := by
  decide +kernel

theorem test_NoticeAnswered :
    let s : State := { issued .notice .notice none (.fixed notice.bytes) demoFeed with notices := (noticed 2).notices }
    s.inFlight (theEntry .notice .notice none (.fixed notice.bytes)) 5 ∧ s.engine = .normal
      ∧ (after (.insertionAnswer 5 .ok) s).notices.staging = [notice]
      ∧ (after (.insertionAnswer 5 .ok) s).attention = true
      ∧ (after (.insertionAnswer 5 .ok) s).insQ.map InsEntry.kind = [.noticeWord, .notice]
      ∧ (after (.insertionAnswer 5 .ok) s).insQ.map InsEntry.addr = [0x0300001800, 0x0300001020] := by
  decide +kernel

theorem test_WordCoalesces :
    (demo demoFeed).engine = .normal ∧ WordId.notice.state (demo demoFeed) = .none
      ∧ (∀ e ∈ (demo demoFeed).insQ, WordId.notice.owns e = false)
      ∧ (∀ x ∈ [WordState.queued, .issued, .issuedMoved],
        WordId.notice.state (setWord .notice x (demo demoFeed)) = x)
      ∧ (issued .notice .noticeWord none (.word 1) demoFeed).inFlight (theEntry .notice .noticeWord none (.word 1)) 5
      ∧ (theEntry .notice .noticeWord none (.word 1)).word = some .notice
      ∧ (∀ x ∈ (issued .notice .noticeWord none (.word 1) demoFeed).insQ, WordId.notice.owns x = true →
        x = theEntry .notice .noticeWord none (.word 1)) := by
  decide +kernel

/-- An item of two parts, the second in a given state. -/
def pairItem (state : PartState) : RowItem :=
  { item .issued with parts := [{ index := 0, offset := 0, length := 32, state := .issued },
      { index := 1, offset := 32, length := 32, state := state }] }

theorem test_RowAnswered :
    let e := theEntry (.feed 3) .row (some ⟨2, 0⟩) (.buffer .zero 0)
    let s (i : RowItem) (r : FrameRecord) : State := issued (.feed 3) .row (some ⟨2, 0⟩) (.buffer .zero 0)
      (framing r { writing .issued demoFeed with rows := { (writing .issued demoFeed).rows with items := [i] } })
    let waits := openRecord (some 1) .none
    let closed : FrameRecord := { openRecord (some 1) .none with state := .closed, rowsQueued := 1 }
    let t (i : RowItem) (r : FrameRecord) : State := after (.insertionAnswer 5 .ok) (s i r)
    (∀ i ∈ [item .issued, pairItem .issued, pairItem .answered], ∀ r ∈ [waits, closed],
        (s i r).inFlight e 5 ∧ (s i r).engine = .normal ∧ i.ident = 2 ∧ i.standing = .live
          ∧ ((s i r).feed 3).rows.items = [] ++ i :: [] ∧ (∀ q ∈ ((s i r).feed 3).frame.records.head?, q.unready))
      ∧ (∀ v ∈ [PartState.issued, .answered],
        (pairItem v).parts = [] ++ ⟨0, 0, 32, .issued⟩ :: [⟨1, 32, 32, v⟩])
      ∧ (∀ i ∈ [item .issued, pairItem .answered], ((t i waits).feed 3).rows.items = []
        ∧ ((t i waits).feed 3).frame.records.map FrameRecord.rowsAnswered = [1])
      ∧ ((t (pairItem .issued) closed).feed 3).rows.items.length = 1
      ∧ ((t (pairItem .answered) closed).feed 3).frame.records.map FrameRecord.state = [.sealing]
      ∧ (t (pairItem .answered) closed).insQ = [headerEntry 3 demoDef 1 { closed with rowsAnswered := 1 } 5] := by
  decide +kernel

theorem test_OrphanedAnswer :
    (demo demoFeed).tags[5] = .free
      ∧ { demo demoFeed with tags := (demo demoFeed).tags.set 5 (.orphaned ⟨.notice, .notice, none⟩) }.tags[5]
        = .orphaned ⟨.notice, .notice, none⟩
      ∧ (∀ j ∈ demoFeed.rows.items, j.ident ≠ 2)
      ∧ (∃ j ∈ (writing .orphaned demoFeed).rows.items, j.ident = 2)
      ∧ ((after (.orphanedAnswer 5 .ok) { demo (writing .orphaned demoFeed) with
          tags := (demo demoFeed).tags.set 5 (.orphaned ⟨.feed 3, .row, some ⟨2, 0⟩⟩) }).feed 3).rows.items = [] := by
  decide +kernel

theorem test_PublishedMoves :
    exec (.insertionAnswer 5 .ok) (issued (.feed 3) .header none (.fixed []) sealing)
        = .next (after (.insertionAnswer 5 .ok) (issued (.feed 3) .header none (.fixed []) sealing))
      ∧ ((after (.insertionAnswer 5 .ok) (issued (.feed 3) .header none (.fixed []) sealing)).feed 3).publisher.published = 1 := by
  exact ⟨rfl, by decide +kernel⟩

theorem test_HeaderValid : (header 1 0x0010 0 64 16 [0, 0, 0, 0]).length = 32
    ∧ (readHeader 7 (header 1 0x0010 1048576 64 16 [0, 0, 0, 0])).isSome = true
    ∧ (readHeader 7 (header 1 0x0010 1048608 64 16 [0, 0, 0, 0])).isSome = false := by
  decide +kernel

theorem test_ParserServesHead :
    let stop : Feed := { framing (openRecord none .suspended) demoFeed with
      frame := { (framing (openRecord none .suspended) demoFeed).frame with retirePending := true } }
    let close := header 4 0x0010 0 0 0 [0, 0, 0, 0]
    let s : State := { tapped close stop with tapQ := (tapped close stop).tapQ ++ (tapped (zeros 32) stop).tapQ }
    (demo demoFeed).tapQ = []
      ∧ (tapped (zeros 64) demoFeed).tapQ = ⟨3, 0x2004000100, zeros 64, 49000, false⟩ :: []
      ∧ (zeros 64).length = 32 * 2 ∧ ((tapped (zeros 64) demoFeed).feed 3).parse.state = .atHeader
      ∧ ((after .parseTapEntry (tapped (zeros 64) demoFeed)).feed 3).parse.budget = 32
      ∧ (s.feed 3).parse.state ≠ .idle ∧ ((after .parseTapEntry s).feed 3).parse.state = .idle
      ∧ (after .parseTapEntry s).tapQ = [] := by
  decide +kernel

/-- Feed 3 in HUNT with a budget. -/
def hunting (budget : Nat) : Feed := { demoFeed with parse := { demoFeed.parse with state := .hunt, budget := budget } }

theorem test_HuntScans :
    (∀ x ∈ [hunting 65504, demoFeed], (tapped (zeros 32) x).tapQ = ⟨3, 0x2004000100, zeros 32, 49000, false⟩ :: [])
      ∧ ((tapped (zeros 32) (hunting 65504)).feed 3).parse.state = .hunt
      ∧ readHeader demoDef.tag (zeros 32) = none
      ∧ 65504 + 32 ≤ demoDef.ingestSize ∧ demoDef.ingestSize < 65536 + 32
      ∧ ((after .parseTapEntry (tapped (zeros 32) (hunting 65504))).feed 3).life.state = .active
      ∧ ((after .parseTapEntry (tapped (zeros 32) (hunting 65536))).feed 3).life.state = .faulted
      ∧ demoFeed.parse.state = .atHeader ∧ demoFeed.parse.cursor = 0x2004000100
      ∧ ((after .parseTapEntry (tapped (zeros 32) demoFeed)).feed 3).life.counters.headerRejects = 1 := by
  decide +kernel

theorem test_BreakHunts :
    (tapped (zeros 32) (framing (openRecord none .suspended) demoFeed)).tapQ
        = ⟨3, 0x2004000100, zeros 32, 49000, false⟩ :: []
      ∧ ((tapped (zeros 32) demoFeed).feed 3).parse.state = .atHeader
      ∧ (0x2004000100 : Addr) ≠ { demoFeed.parse with cursor := 0x20040000C0 }.cursor
      ∧ readHeader demoDef.tag (zeros 32) = none ∧ 32 ≤ demoDef.ingestSize
      ∧ (framing (openRecord none .suspended) demoFeed).frame.openFrame = .tracked := by
  decide +kernel

/-- An OPEN of a 64 by 16 frame, one of a frame whose width is no multiple of 8, and a CLOSE. -/
def openBytes (w : Nat) : List Byte := header 1 0x0010 0 w 16 [28, 59, 10, 0]
def closeBytes : List Byte := header 4 0x0010 0 0 0 [0, 0, 0, 0]

/-- Feed 3 with its four records full, none of them open. -/
def crowded : Feed := { demoFeed with frame := { demoFeed.frame with
  records := (List.range 4).map fun k =>
    { openRecord (some k) .none with serial := BitVec.ofNat 32 k, state := .closed, rowsQueued := 1 } } }

/-- Feed 3 with retire pending. -/
def retiring (x : Feed) : Feed := { x with frame := { x.frame with retirePending := true } }

theorem test_OpenHeader :
    let open' := framing (openRecord none .suspended) demoFeed
    let untracked : Feed := { demoFeed with frame := { demoFeed.frame with openFrame := .untracked } }
    let t (x : Feed) : Feed := (after .parseTapEntry (tapped (openBytes 64) x)).feed 3
    ((tapped (openBytes 64) demoFeed).tapQ = ⟨3, 0x2004000100, openBytes 64, 49000, false⟩ :: []
      ∧ (openBytes 64).length = 32
      ∧ (∀ x ∈ [demoFeed, hunting 0, crowded, open', retiring open', untracked],
        x.meetsHeader ⟨3, 0x2004000100, openBytes 64, 49000, false⟩)
      ∧ readHeader 7 (openBytes 64) = some ⟨.opening, 0x0010, 0, 0, ⟨28, 59, 10, 0⟩, 64, 16⟩
      ∧ demoFeed.frame.openFrame = .none ∧ demoFeed.frame.retirePending = false ∧ 4 ≤ crowded.frame.records.length
      ∧ (t demoFeed).frame.records.map FrameRecord.reason = [.none]
      ∧ (t (hunting 0)).frame.records.map FrameRecord.reason = [.none]
      ∧ ((after .parseTapEntry (tapped (openBytes 68) demoFeed)).feed 3).frame.records.map FrameRecord.reason
        = [.geometry]
      ∧ (t crowded).life.counters.untrackedFrames = 1 ∧ (t crowded).frame.openFrame = .untracked
      ∧ (t open').frame.records.map FrameRecord.serial = [5] ∧ (t (retiring open')).parse.state = .idle
      ∧ (t untracked).frame.records.length = 1
      ∧ demoFeed.gapAt ⟨.opening, 0x0012, 0, 0, ⟨0, 0, 0, 0⟩, 64, 16⟩ = 2)
      ∧ open'.framing (openRecord none .suspended) :=
  ⟨by decide +kernel, rfl, rfl, [], rfl, by decide, by decide⟩

theorem test_TimecodesChecked :
    timecodeValid 3 ⟨28, 59, 10, 0⟩ = true ∧ timecodeValid 3 ⟨0, 0, 11, 0⟩ = false
      ∧ timecodeValid 3 ⟨1, 0, 11, 0⟩ = false ∧ timecodeValid 2 ⟨1, 0, 11, 0⟩ = true ∧ timecodeValid 3 ⟨0, 0, 10, 0⟩ = true
      ∧ (⟨28, 59, 10, 0⟩ : Timecode) ≠ ⟨5, 0, 11, 0⟩ ∧ timecodeValid 5 ⟨59, 59, 59, 23⟩ = true := by
  decide +kernel

/-- A LINES header of one line from line 0, for a frame of width 64, and an AUDIO header of no channel. -/
def linesBytes : List Byte := header 2 0x0010 256 1 0 [0, 0, 0, 0]
def audioBytes : List Byte := header 3 0x0010 32 1 0 [0, 0, 0, 0]

/-- Feed 3 in a payload with 64 bytes left. -/
def walking (d : Disposition) (x : Feed) : Feed := { x with
  parse := { x.parse with state := .inPayload, residue := 64, packet := some ⟨.lines, d⟩ } }

/-- Bytes whose sixteen words are 1023. -/
def whiteBytes : List Byte := (List.replicate 16 [0xFF, 0x03]).flatten

theorem test_PayloadHeaders :
    let x := framing (openRecord none .suspended) demoFeed
    let fresh := framing { openRecord none .suspended with lastLine := none } demoFeed
    let untracked : Feed := { demoFeed with frame := { demoFeed.frame with openFrame := .untracked } }
    let browse := { framing { openRecord (some 1) .none with lastLine := none } demoFeed with reducer := startReducer 16 }
    let t (bytes : List Byte) (x : Feed) : Feed := (after .parseTapEntry (tapped bytes x)).feed 3
    ((tapped linesBytes x).tapQ = ⟨3, 0x2004000100, linesBytes, 49000, false⟩ :: [] ∧ linesBytes.length = 32
      ∧ (∀ y ∈ [x, fresh, untracked, demoFeed, hunting 0], y.meetsHeader ⟨3, 0x2004000100, linesBytes, 49000, false⟩)
      ∧ readHeader 7 linesBytes = some ⟨.lines, 0x0010, 0, 256, ⟨0, 0, 0, 0⟩, 1, 0⟩
      ∧ readHeader 7 audioBytes = some ⟨.audio, 0x0010, 0, 32, ⟨0, 0, 0, 0⟩, 1, 0⟩
      ∧ (readHeader 7 (header 5 0x0010 32 0 0 [0, 0, 0, 0])).map EssenceHeader.kind = some .fill
      ∧ (t linesBytes x).frame.records.map FrameRecord.conditions = [0x0010]
      ∧ (t audioBytes x).frame.records.map FrameRecord.conditions = [0x0400]
      ∧ (t linesBytes fresh).parse.packet = some { kind := .lines, disposition := .lines 0 1 0 }
      ∧ (t linesBytes untracked).parse.packet = some { kind := .lines, disposition := .skip }
      ∧ (t linesBytes demoFeed).life.counters.strayPackets = 1
      ∧ (∀ d ∈ [Disposition.skip, .lines 15 1 112, .audio 1 8 0], (t whiteBytes (walking d browse)).parse.residue = 32)
      ∧ ((walking (.lines 15 1 112) browse).openRecord.map FrameRecord.width) = some 64
      ∧ (t whiteBytes (walking (.lines 15 1 112) browse)).frame.records.map FrameRecord.lastLine = [some 15]
      ∧ (t whiteBytes (walking (.lines 15 1 112) browse)).reducer.band = 3
      ∧ (t whiteBytes (walking (.audio 1 8 0) browse)).frame.peaks[0] = 64513)
      ∧ x.framing (openRecord none .suspended) :=
  ⟨by decide +kernel, rfl, rfl, [], rfl, by decide, by decide⟩

theorem test_CloseHeader :
    let x := framing (openRecord none .suspended) demoFeed
    let untracked : Feed := { demoFeed with frame := { demoFeed.frame with openFrame := .untracked } }
    let browse := { framing { openRecord (some 1) .none with rowsQueued := 0 } demoFeed with
      reducer := startReducer 16, publisher := { demoFeed.publisher with assigned := 1 } }
    let t (x : Feed) : State := after .parseTapEntry (tapped closeBytes x)
    ((tapped closeBytes x).tapQ = ⟨3, 0x2004000100, closeBytes, 49000, false⟩ :: []
      ∧ closeBytes.length = 32 ∧ (∀ y ∈ [x, untracked, browse, retiring x],
        y.meetsHeader ⟨3, 0x2004000100, closeBytes, 49000, false⟩)
      ∧ readHeader 7 closeBytes = some ⟨.close, 0x0010, 0, 0, ⟨0, 0, 0, 0⟩, 0, 0⟩ ∧ x.parse.expectedSeq = 0x0010
      ∧ x.frame.openFrame = .tracked ∧ x.frame.retirePending = false
      ∧ x.frame.records = [openRecord none .suspended] ∧ (openRecord none .suspended).state = .opened
      ∧ (openRecord none .suspended).slot = none
      ∧ (t x).catalogue.staging.map (fun r => r.record.linesMissing) = [8]
      ∧ ((t untracked).feed 3).frame.openFrame = .none ∧ ((t (retiring x)).feed 3).parse.state = .idle
      ∧ ((t browse).feed 3).frame.records.map FrameRecord.rowsQueued = [4]
      ∧ ((t browse).feed 3).frame.records.map FrameRecord.state = [.closed])
      ∧ x.framing (openRecord none .suspended) :=
  ⟨by decide +kernel, rfl, rfl, [], rfl, by decide, by decide⟩

theorem test_LossTimeout :
    let expired (s : State) : Prop := (s.feed 3).life.presence = .present ∧ (s.feed 3).parse.state ≠ .idle
      ∧ (s.feed 3).params.lossTimeout ≠ 0
      ∧ (s.feed 3).params.lossTimeout * 1000 ≤ s.timeBase.toNat - (s.feed 3).life.lastArrival.toNat
    let x := framing (openRecord none .suspended) demoFeed
    let untracked : Feed := { demoFeed with frame := { demoFeed.frame with openFrame := .untracked, nextSerial := 45 } }
    let first : FrameRecord := { openRecord (some 1) .none with serial := 3, state := .sealing }
    let behind : Feed := { x with frame := { x.frame with records := [first] ++ [openRecord none .suspended] } }
    let t (x : Feed) : State := after (.lossTimeoutExpiry 3) (demo x)
    ((¬ expired { demo demoFeed with timeBase := 40999 }) ∧ expired { demo demoFeed with timeBase := 41000 }
      ∧ demoFeed.frame.openFrame = .none ∧ (∀ y ∈ [x, untracked, behind, retiring x], expired (demo y))
      ∧ untracked.frame.openFrame = .untracked ∧ (openRecord none .suspended).slot = none
      ∧ behind.frame.records ≠ [openRecord none .suspended]
      ∧ (t x).notices.staging.map Notice.body = [.feedLost 3 1000 (some 4)]
      ∧ (t untracked).notices.staging.map Notice.body = [.feedLost 3 1000 (some 44)]
      ∧ (t x).insQ.map InsEntry.kind = [.notice]
      ∧ ((t behind).feed 3).frame.records.map FrameRecord.conditions = [0, 0x0804]
      ∧ ((t (retiring x)).feed 3).parse.state = .idle)
      ∧ x.framing (openRecord none .suspended) ∧ behind.framing (openRecord none .suspended) :=
  ⟨by decide +kernel, ⟨rfl, rfl, [], rfl, by decide, by decide⟩, ⟨rfl, rfl, [_], rfl, by decide +kernel, by decide +kernel⟩⟩

theorem test_BandValues : (4 = 2 ∨ 4 = 4 ∨ 4 = 8) ∧ 1 ≤ 4 ∧ 4 ≤ 4 ∧ 16368 ≤ 1023 * 4 * 4
    ∧ (16352 + 2 * 4 * 4) / (4 * 4 * 4) = 256 ∧ 1022 * 4 * 4 = 16352
    ∧ (16351 + 2 * 4 * 4) / (4 * 4 * 4) = 255 ∧ bandValue 4 4 16351 = 255 := by
  decide +kernel

theorem test_RowLayout :
    (demoDef.decimation = 4 ∧ 72 % (2 * demoDef.decimation) = 0 ∧ (List.replicate 18 16).length = 72 / demoDef.decimation)
      ∧ (computedRow demoDef 72 4 (List.replicate 18 16) (List.replicate 18 16)).length = 64
      ∧ (4064 % 32 = 0 ∧ 4096 % 32 = 0 ∧ 32 ≤ 4096 ∧ 4096 ≤ 4096) := by
  decide +kernel

/-- Feed 3 with an OPEN record in slot 1 and its reducer in a band. -/
def reducing (band count : Nat) (reference : Option BufferId) (x : Feed) : Feed :=
  { framing (openRecord (some 1) .none) x with
    reducer := { startReducer 16 with band := band, count := count, reference := reference } }

theorem test_BandCompletes :
    let hold := reducing 1 0 (some .zero) (writing .waiting demoFeed)
    let busy := reducing 1 4 (some .zero) { demoFeed with rows := { demoFeed.rows with
      buffer0 := { useCount := 1, cells := [] }, buffer1 := { useCount := 1, cells := [] } } }
    let free := reducing 0 4 none demoFeed
    let second := reducing 1 4 (some .zero) demoFeed
    (∀ x ∈ [hold, busy, free, second], x.openRecord = some (openRecord (some 1) .none))
      ∧ (hold.reducer.count = 0 ∧ hold.reducer.band ≠ 0 ∧ hold.reducer.reference = some .zero)
      ∧ (busy.reducer.count ≠ 0 ∧ busy.rows.buffer0.useCount ≠ 0 ∧ busy.rows.buffer1.useCount ≠ 0)
      ∧ (free.reducer.count ≠ 0 ∧ free.rows.buffer0.useCount = 0)
      ∧ (((completeBand 3 (demo hold)).feed 3).rows.buffer0.useCount = 2)
      ∧ (((completeBand 3 (demo hold)).feed 3).frame.records.map FrameRecord.rowsQueued = [1])
      ∧ (((completeBand 3 (demo busy)).feed 3).frame.records.map FrameRecord.reason = [.abandoned])
      ∧ (((completeBand 3 (demo free)).feed 3).rows.items.length = 1)
      ∧ (((completeBand 3 (demo free)).feed 3).reducer.band = 1)
      ∧ (((completeBand 3 (demo second)).feed 3).reducer.reference = some .one)
      ∧ free.reducer.mode = .reducing ∧ Reducer.reset.mode = .idle
      ∧ (free.reducer.addWord 4 64 9 67 5).lineChroma[1]? = some 5
      ∧ (free.reducer.addWord 4 64 9 72 5).lineChroma[2]? = some 5
      ∧ ((reduceLine 3 9 (demo free)).feed 3).reducer.band = 2
      ∧ ((reduceLine 3 9 (demo free)).feed 3).reducer.count = 1 := by
  decide +kernel

theorem test_RowPartQueued :
    let s := demo (writing .waiting demoFeed)
    s.engine = .normal ∧ (s.insQ.countP fun e => decide (e.source = .feed 3) && decide (e.kind = .row)) < 2
      ∧ (s.feed 3).rows.items = [] ++ item .waiting :: []
      ∧ (item .waiting).parts = [] ++ { index := 0, offset := 0, length := 32, state := .waiting } :: []
      ∧ (after (.rowPartQueue 3) s).insQ.length = 1 := by
  decide +kernel

theorem test_BatchSizeLeast :
    (64 = 64 * 2 ^ 0 ∧ 65536 = 64 * 2 ^ 10)
      ∧ ({ (staged 4).catalogue with produced := 58, consumed := 10 }.produced - (10 : Count)).toNat ≤ 64
      ∧ batchSize { (staged 4).catalogue with produced := 64, consumed := 0 } ⟨0x4000200000, 64, 4, 20⟩ = 0 := by
  decide +kernel

theorem test_BatchStarts :
    let at' (t : Time) (n : Nat) : State := { staged n with timeBase := t }
    let waited (s : State) : Prop := ∃ r ∈ s.catalogue.staging.head?, 20 * 1000 ≤ s.timeBase.toNat - r.time.toNat
    (∀ n ∈ [1, 4], (at' 50000 n).engine = .normal ∧ (at' 50000 n).catalogue.batch = none ∧ (at' 50000 n).insQ = []
        ∧ 1 ≤ batchSize (at' 50000 n).catalogue ⟨0x4000200000, 64, 4, 20⟩)
      ∧ waited (at' 50000 1) ∧ ¬ waited (at' 49999 1) ∧ 4 ≤ (at' 30000 4).catalogue.staging.length
      ∧ (after .batchStart (at' 30000 4)).insQ.length = 1 ∧ (after .flushTimeoutExpiry (at' 50000 1)).insQ.length = 1
      ∧ (after .flushTimeoutExpiry (at' 49999 1)).insQ.length = 0 ∧ State.reset.catalogue.defn = none := by
  decide +kernel

theorem test_IndexStaging : (staged 31).catalogue.staging.length < 32 ∧ 32 ≤ (staged 32).catalogue.staging.length
    ∧ (stageIndex indexed (staged 31)).catalogue.staging.length = 32
    ∧ (stageIndex indexed (staged 32)).catalogue.lost = 1 ∧ (stageIndex indexed (staged 32)).catalogue.batch = none
    ∧ (stageIndex indexed { staged 2 with timeBase := 30000 }).catalogue.batch = none
    ∧ (stageIndex indexed { staged 3 with timeBase := 30000 }).catalogue.batch = some ⟨0, 4⟩
    ∧ indexed.bytes.take 2 = [3, 7] := by
  decide +kernel

theorem test_NoticeEntryMade :
    (noticed 1).notices.staging = notice :: [] ∧ (noticed 1).insQ = [] ∧ (noticed 1).engine = .normal
      ∧ ((63 : Count) - (noticed 1).notices.consumed).toNat < 64
      ∧ 64 ≤ (ringsFull.notices.produced - ringsFull.notices.consumed).toNat
      ∧ (after .noticeEntryMake (noticed 1)).insQ.length = 1
      ∧ (noticed 7).notices.staging.length < 8 ∧ 8 ≤ (noticed 8).notices.staging.length
      ∧ (stageEvent notice.body (noticed 7)).notices.staging.length = 8
      ∧ (stageEvent notice.body (noticed 8)).notices.lost = 1
      ∧ notice.bytes.take 4 = [3, 0, 0, 3] := by
  decide +kernel

/-- SET CATALOGUE: base 0x4000200000, 64 entries, trigger 4, flush 20 ms. -/
def setCatalogueRecord : Command := record ([1, 0, 0x34, 0x12, 0, 0, 0, 0] ++ leBytes 8 0x4000200000 ++ leBytes 4 64 ++ [4, 0] ++ leBytes 2 20)

theorem test_SetCatalogue :
    let t (c : Command) (x : Feed) : List NoticeBody := (after .setCatalogue (heading c x)).notices.staging.map Notice.body
    let low : Command := record ([1, 0, 0x34, 0x12, 0, 0, 0, 0] ++ leBytes 8 0x02FFFFF000 ++ leBytes 4 128 ++ [4, 0] ++ leBytes 2 20)
    let slow : Command := record ([1, 0, 0x34, 0x12, 0, 0, 0, 0] ++ leBytes 8 0x4000200000 ++ leBytes 4 64 ++ [4, 0] ++ leBytes 2 1001)
    (heading setCatalogueRecord Feed.reset).headRuns setCatalogueRecord [] 0x01
      ∧ t setCatalogueRecord Feed.reset = [.commandDone 0x1234 1 0 .done 0]
      ∧ t setCatalogueRecord demoFeed = [.commandDone 0x1234 1 0 .busy 0]
      ∧ t slow Feed.reset = [.commandDone 0x1234 1 0 .badParameter 0]
      ∧ t low Feed.reset = [.commandDone 0x1234 1 0 .overlap 0] := by
  decide +kernel

/-- DEFINE FEED 5: a 64 KiB ring at 0x2105000000 and two slots of 4096 bytes at 0x3100000000. -/
def defineRecord : Command := record ([2, 5, 0x35, 0x12, 9, 4, 1, 1] ++ leBytes 8 0x2105000000 ++ leBytes 4 65536
  ++ leBytes 4 4096 ++ leBytes 8 0x3100000000 ++ leBytes 2 2 ++ [3, 0] ++ leBytes 2 1000)

theorem test_DefineFeed :
    let variant (changes : List (Nat × Byte)) : Command :=
      { bytes := changes.foldl (fun l q => l.set q.1 q.2) defineRecord.bytes }
    let t (c : Command) : List NoticeBody := (after .defineFeed (heading c demoFeed)).notices.staging.map Notice.body
    (heading defineRecord demoFeed).headRuns defineRecord [] 0x02 ∧ defineRecord.feedField = BitVec.ofNat 8 (5 : FeedId).val
      ∧ ((after .defineFeed (heading defineRecord demoFeed)).feed 5).life.state = .defined
      ∧ ((after .defineFeed (heading defineRecord demoFeed)).feed 5).parse.cursor = 0x2105000000
      ∧ (heading defineRecord demoFeed).windowsApart
      ∧ t (variant [(1, 3)]) = [.commandDone 0x1235 2 3 .busy 0]
      ∧ t (variant [(32, 1)]) = [.commandDone 0x1235 2 5 .badParameter 0]
      ∧ t (variant [(28, 0x30), (26, 0x10)]) = [.commandDone 0x1235 2 5 .overlap 0]
      ∧ t (variant [(28, 0x21), (27, 0x05)]) = [.commandDone 0x1235 2 5 .overlap 0] := by
  decide +kernel

/-- A command that names feed 3, and its mode byte. -/
def feedRecord (opcode mode : Byte) : Command := record [opcode, 3, 0x36, 0x12, mode]

theorem test_StartSuspendResume :
    (∀ code ∈ [(0x03 : Byte), 0x04, 0x05], (heading (feedRecord code 0) demoFeed).headRuns (feedRecord code 0) [] code
        ∧ (feedRecord code 0).feedField = BitVec.ofNat 8 (3 : FeedId).val)
      ∧ ((after .startFeed (heading (feedRecord 0x03 0) (inState .defined (parsing .idle demoFeed)))).feed 3).parse.state = .hunt
      ∧ ((after .suspendFeed (heading (feedRecord 0x04 0) demoFeed)).feed 3).life.state = .suspended
      ∧ ((after .resumeFeed (heading (feedRecord 0x05 0) (inState .suspended demoFeed))).feed 3).life.state = .active := by
  decide +kernel

theorem test_RetireFeed :
    (∀ mode ∈ [(0 : Byte), 1, 2, 3], (heading (feedRecord 0x06 mode) demoFeed).headRuns (feedRecord 0x06 mode) [] 0x06)
      ∧ (feedRecord 0x06 1).retireMode = some .atFrameEnd ∧ (feedRecord 0x06 2).retireMode = some .now
      ∧ (feedRecord 0x06 0).retireMode = none ∧ (feedRecord 0x06 3).retireMode = none
      ∧ ((after .retireFeedAtFrameEnd (heading (feedRecord 0x06 1)
          (framing (openRecord none .suspended) demoFeed))).feed 3).frame.retirePending = true
      ∧ ((after .retireFeedAtFrameEnd (heading (feedRecord 0x06 1) demoFeed)).feed 3).parse.state = .idle := by
  decide +kernel

theorem test_RetireNow :
    let s := heading (feedRecord 0x06 2) (framing (openRecord none .suspended) (writing .issued demoFeed))
    let e : InsEntry := theEntry (.feed 3) .row (some ⟨2, 0⟩) (.buffer .zero 0)
    let u : State := { s with tags := s.tags.set 5 .insertion, insQ := [e], nextAge := 5 }
    u.headRuns (feedRecord 0x06 2) [] 0x06 ∧ (feedRecord 0x06 2).retireMode = some .now ∧ (u.feed 3).life.state = .active
      ∧ (feedRecord 0x06 2).feedField = BitVec.ofNat 8 (3 : FeedId).val
      ∧ (e ∈ u.insQ ∧ e.source = .feed 3 ∧ e.state = .issued 5 ∧ ∀ z ∈ u.insQ, z.state = .issued 5 → z = e)
      ∧ ((after .retireFeedNow u).feed 3).life.drain = some ⟨0x1236, 1⟩
      ∧ (after .retireFeedNow u).tags[5] = .orphaned ⟨.feed 3, .row, some ⟨2, 0⟩⟩
      ∧ ((after .retireFeedNow u).feed 3).rows.items = [{ item .orphaned with standing := .orphaned }] := by
  decide +kernel

theorem test_RestartFeed :
    let x := parsing .idle (inState .faulted demoFeed)
    let stale : Feed := { x with publisher := { x.publisher with stale := true } }
    (∀ y ∈ [x, stale], (heading (feedRecord 0x07 0) y).headRuns (feedRecord 0x07 0) [] 0x07 ∧ y.life.state = .faulted)
      ∧ x.publisher.stale = false ∧ (heading (feedRecord 0x07 0) stale).insQ = []
      ∧ ownsOrphan (demo x).tags 3 = false ∧ demoFeed.life.state ≠ .faulted
      ∧ ownsOrphan ((demo x).tags.set 5 (.orphaned ⟨.feed 3, .header, none⟩)) 3 = true
      ∧ ((after .restartFeed (heading (feedRecord 0x07 0) stale)).insQ.map InsEntry.kind = [.publishWord, .notice]) := by
  decide +kernel

theorem test_ReportFeed :
    (heading (feedRecord 0x08 0) demoFeed).headRuns (feedRecord 0x08 0) [] 0x08
      ∧ (heading (feedRecord 0x08 0) demoFeed).insQ = []
      ∧ (issued .report .statusRecord none (.fixed []) demoFeed).inFlight (theEntry .report .statusRecord none (.fixed [])) 5
      ∧ (after .reportFeed (heading (feedRecord 0x08 0) demoFeed)).commands.phase = .reporting
      ∧ (after .reportNoticeStage { heading (feedRecord 0x08 0) demoFeed with
          commands := { queue := [feedRecord 0x08 0], phase := .reported } }).notices.staging.length = 1
      ∧ (after .reportNoticeStage { heading (feedRecord 0x08 0) demoFeed with
          commands := { queue := [feedRecord 0x08 0], phase := .reported },
          notices := (noticed 8).notices }).notices.staging.length = 8
      ∧ demoFeed.life.defn = some demoDef ∧ Feed.reset.life.defn = none
      ∧ (statusBytes 3 50000 demoFeed).take 8 = [3, 2, 1, 0, 0, 0, 7, 4] := by
  decide +kernel

theorem test_ResetEngine :
    let s : State := { issued .report .statusRecord none (.fixed []) demoFeed with
      commands := { queue := [feedRecord 0x09 0, feedRecord 0x03 0], phase := .ready }, engine := .controlPathFailed }
    s.tagsAgree ∧ s.commands.queue = feedRecord 0x09 0 :: [feedRecord 0x03 0] ∧ (feedRecord 0x09 0).opcodeByte = 0x09
      ∧ (after .resetEngine s).tags[5] = .orphaned ⟨.report, .statusRecord, none⟩
      ∧ (after .resetEngine s).insQ.map InsEntry.kind = [.notice]
      ∧ (after .resetEngine s).notices.staging.map Notice.body = [.commandDone 0x1236 9 3 .done 1] := by
  decide +kernel

theorem test_RefusedCommands :
    (∀ code ∈ [(0 : Byte), 10, 255], (heading (feedRecord code 0) demoFeed).headRuns (feedRecord code 0) [] code)
      ∧ 15 < (record [0x02, 16]).feedField.toNat ∧ (heading (record [0x02, 16]) demoFeed).headRuns (record [0x02, 16]) [] 0x02
      ∧ (record [0x06, 255, 0, 0, 1]).retireMode ≠ some .now
      ∧ (after .commandDiscard { heading (feedRecord 0x03 0) demoFeed with engine := .controlPathFailed }).commands.queue = [] := by
  decide +kernel

theorem test_DrainExit :
    let x : Feed := { parsing .idle (inState .draining demoFeed) with
      life := { (inState .draining demoFeed).life with drain := some ⟨0x1236, 1⟩ } }
    x.life.state = .draining ∧ x.parse.state = .idle ∧ x.frame.records = [] ∧ x.rows.items = [] ∧ (demo x).insQ = []
      ∧ (∀ u : Tag, (demo x).tags[u] = .free) ∧ (demo x).notices.staging.length < 8 ∧ (demo x).engine = .normal
      ∧ ((after (.drainExit 3) (demo x)).feed 3).life.state = .vacant
      ∧ (after (.drainExit 3) (demo x)).insQ.map InsEntry.kind = [.notice]
      ∧ (after (.drainExit 3) (demo x)).notices.staging.map Notice.body = [.commandDone 0x1236 6 3 .done 1]
      ∧ ((after (.drainExit 3) { demo x with notices := (noticed 8).notices }).feed 3).life.state = .draining := by
  decide +kernel

theorem test_BoundsKept : (demo demoFeed).withinCapacity ∧ (demo demoFeed).buffersWf
    ∧ step (demo demoFeed) = .next (demo demoFeed) := by
  exact ⟨by decide +kernel, by decide +kernel, rfl⟩

theorem test_InsertionQueueKept :
    let s := issued .notice .notice none (.fixed notice.bytes) demoFeed
    s.quotasKept ∧ s.agesRise ∧ s.tagsAgree ∧ step s = .next s := by
  exact ⟨by decide +kernel, by decide +kernel, by decide +kernel, rfl⟩

theorem test_PublishingKept :
    (demo sealing).publishing ∧ step (demo sealing) = .next (demo sealing) := by
  exact ⟨by decide +kernel, rfl⟩

theorem test_RowsCountedKept :
    (demo (writing .waiting demoFeed)).rowsCounted ∧ step (demo demoFeed) = .next (demo demoFeed) := by
  exact ⟨by decide +kernel, rfl⟩

theorem test_RingWindowsKept :
    (ringsFull.catalogueWindow ∧ ringsFull.noticeWindow ∧ ringsFull.windowsApart) ∧ step ringsFull = .next ringsFull
      ∧ (State.reset.windowsApart ∧ (ringsFull.feed 3).ingest = some { base := 0x2004000000, mask := 0xFFFFFF0000 }
        ∧ classify ringsFull 0x0300000000 = .control ∧ classify ringsFull 0x030000FFFF = .control
        ∧ classify ringsFull 0x2003FFFFFF = .other ∧ classify ringsFull 0x2004000000 = .ingest 3
        ∧ classify ringsFull 0x200400FFFF = .ingest 3 ∧ classify ringsFull 0x3000103FFF = .browse 3
        ∧ classify ringsFull 0x3000104000 = .other ∧ classify ringsFull 0x4000200FFF = .catalogue) := by
  exact ⟨by decide +kernel, rfl, by decide +kernel⟩

end Sys2Proof.Tests
end

section
/-! Essence packet headers (R2, R3): the check sum as the sum of a header's word fields, the five kinds, and what
`readHeader` answers. -/

namespace Sys2Proof.Machine

/-! ### The check sum -/

/-- Two bytes at a record's start are one little-endian word. -/
theorem fieldAt_word_first (a b : Byte) (rest : List Byte) :
    fieldAt (a :: b :: rest) 0 2 = a.toNat + 256 * b.toNat :=
  fieldAt_first [a, b] rest

/-- A word field behind a record's first word is the field one word earlier in the rest. -/
theorem fieldAt_word_succ (a b : Byte) (rest : List Byte) (i : Nat) :
    fieldAt (a :: b :: rest) (2 * (i + 1)) 2 = fieldAt rest (2 * i) 2 :=
  fieldAt_skip (a := [a, b]) rest 2 (Nat.le_add_left 2 (2 * i))

/-- The words of a record are its 2-byte fields at the even offsets. -/
theorem words16_eq_map_fieldAt (bytes : List Byte) :
    words16 bytes = (List.range (bytes.length / 2)).map fun i => fieldAt bytes (2 * i) 2 := by
  induction bytes using words16.induct with
  | case1 a b rest ih =>
    have oneMore : (a :: b :: rest).length / 2 = rest.length / 2 + 1 := by
      simp only [List.length_cons]; omega
    rw [words16, ih, oneMore, List.range_succ_eq_map, List.map_cons, List.map_map, Nat.mul_zero, fieldAt_word_first]
    exact congrArg _ (List.map_congr_left fun i _ => (fieldAt_word_succ a b rest i).symm)
  | case2 bytes short =>
    match bytes, short with
    | [], _ => rfl
    | [_], _ => simp [words16]
    | a :: b :: rest, short => exact absurd rfl (short a b rest)

/-- The check sum of 32 bytes adds the sixteen words at their offsets (R3). -/
theorem checkSum_eq_sum_fieldAt {bytes : List Byte} (len : bytes.length = 32) :
    checkSum bytes = ((List.range 16).map fun i => fieldAt bytes (2 * i) 2).sum % 65536 := by
  rw [checkSum, words16_eq_map_fieldAt, len]

/-! ### The kind -/

/-- The numbers of the five kinds (R2). -/
theorem packetKind_eq_some {n : Nat} {kind : PacketKind} (h : packetKind n = some kind) :
    (n = 1 ∧ kind = .opening) ∨ (n = 2 ∧ kind = .lines) ∨ (n = 3 ∧ kind = .audio) ∨ (n = 4 ∧ kind = .close)
      ∨ (n = 5 ∧ kind = .fill) := by
  unfold packetKind at h
  split at h <;> simp_all

/-- A number names a kind exactly from 1 to 5 (R3). -/
theorem exists_packetKind_iff (n : Nat) : (∃ kind, packetKind n = some kind) ↔ 1 ≤ n ∧ n ≤ 5 := by
  constructor
  · rintro ⟨kind, named⟩
    have := packetKind_eq_some named
    omega
  · rintro ⟨low, high⟩
    match n, low, high with
    | 1, _, _ => exact ⟨.opening, rfl⟩
    | 2, _, _ => exact ⟨.lines, rfl⟩
    | 3, _, _ => exact ⟨.audio, rfl⟩
    | 4, _, _ => exact ⟨.close, rfl⟩
    | 5, _, _ => exact ⟨.fill, rfl⟩

/-! ### The header -/

/-- R3's conditions on a header other than the one on its kind. -/
def headerChecks (tag : Byte) (bytes : List Byte) : Prop :=
  fieldAt bytes 0 2 = 0xA55C ∧ checkSum bytes = 0 ∧ bytes.getD 3 0 = tag
    ∧ fieldAt bytes 8 4 % 32 = 0 ∧ fieldAt bytes 8 4 ≤ Config.payloadLimit

/-- The header that bytes of this kind hold (11.1). -/
def headerFields (kind : PacketKind) (bytes : List Byte) : EssenceHeader :=
  { kind := kind, sequence := BitVec.ofNat 16 (fieldAt bytes 4 2), a := fieldAt bytes 6 2,
    len := fieldAt bytes 8 4, timecode := timecodeAt bytes 12, b := fieldAt bytes 16 2, c := fieldAt bytes 18 2 }

/-- Bytes read as a header exactly when their kind byte names a kind and they pass R3's other conditions. -/
theorem readHeader_eq_some_iff {tag : Byte} {bytes : List Byte} {h : EssenceHeader} :
    readHeader tag bytes = some h ↔
      ∃ kind, packetKind (fieldAt bytes 2 1) = some kind ∧ headerChecks tag bytes ∧ h = headerFields kind bytes := by
  unfold readHeader
  cases named : packetKind (fieldAt bytes 2 1) with
  | none => simp
  | some kind => simp [headerChecks, headerFields, and_assoc, eq_comm (a := h)]

/-- Some header is read exactly when the kind is 1 to 5 and R3's other conditions hold. -/
theorem readHeader_isSome_iff (tag : Byte) (bytes : List Byte) :
    (readHeader tag bytes).isSome = true ↔
      (1 ≤ fieldAt bytes 2 1 ∧ fieldAt bytes 2 1 ≤ 5) ∧ headerChecks tag bytes := by
  rw [Option.isSome_iff_exists, ← exists_packetKind_iff]
  constructor
  · rintro ⟨h, read⟩
    obtain ⟨kind, named, checks, -⟩ := readHeader_eq_some_iff.mp read
    exact ⟨⟨kind, named⟩, checks⟩
  · rintro ⟨⟨kind, named⟩, checks⟩
    exact ⟨headerFields kind bytes, readHeader_eq_some_iff.mpr ⟨kind, named, checks, rfl⟩⟩

/-- Within a record, its byte read with a default is the byte that stands there. -/
theorem getD_eq_iff_getElem? {bytes : List Byte} {i : Nat} (inside : i < bytes.length) (b d : Byte) :
    bytes.getD i d = b ↔ bytes[i]? = some b := by
  rw [List.getD_eq_getElem?_getD, List.getElem?_eq_getElem inside, Option.getD_some, Option.some_inj]

/-- Settles O29: the fields by the five kinds, validity by the check sum read word by word. -/
theorem headerValid : Obligations.HeaderValid := by
  unfold Obligations.HeaderValid
  intro tag bytes len
  constructor
  · intro h read
    obtain ⟨kind, named, -, rfl⟩ := readHeader_eq_some_iff.mp read
    obtain ⟨number, rfl⟩ | ⟨number, rfl⟩ | ⟨number, rfl⟩ | ⟨number, rfl⟩ | ⟨number, rfl⟩ :=
      packetKind_eq_some named <;> simp only [number, headerFields, timecodeAt]
  · have tagInside : 3 < bytes.length := by omega
    rw [readHeader_isSome_iff, headerChecks, checkSum_eq_sum_fieldAt len, getD_eq_iff_getElem? tagInside]
    constructor
    · rintro ⟨⟨low, high⟩, sync, sum, tagged, whole, bounded⟩
      exact ⟨sync, sum, low, high, tagged, whole, bounded⟩
    · rintro ⟨sync, sum, low, high, tagged, whole, bounded⟩
      exact ⟨⟨low, high⟩, sync, sum, tagged, whole, bounded⟩

end Sys2Proof.Machine
end

section
/-! Browse values (R57 to R59): the quotient of a band sum, its saturation, and the legal clamp. -/

namespace Sys2Proof.Machine

/-! ### The quotient of a band sum -/

/-- R57's quotient over the `m` = D·n samples summed reaches `k` exactly when the sum and half the divisor reach `k`
divisors. -/
theorem le_roundedMean_iff {m : Nat} (some_sample : 0 < m) (k sum : Nat) :
    k ≤ (sum + 2 * m) / (4 * m) ↔ k * (4 * m) ≤ sum + 2 * m :=
  Nat.le_div_iff_mul_le (Nat.mul_pos (by decide) some_sample)

/-- Samples of at most 1023 give a quotient of at most 256. -/
theorem roundedMean_le {m sum : Nat} (some_sample : 0 < m) (bounded : sum ≤ 1023 * m) :
    (sum + 2 * m) / (4 * m) ≤ 256 := by
  refine Nat.le_of_not_lt fun above => ?_
  have := (le_roundedMean_iff some_sample 257 sum).mp above
  omega

/-- The quotient is 256 exactly when the 10-bit mean is at least 1022. -/
theorem roundedMean_eq_256_iff {m sum : Nat} (some_sample : 0 < m) (bounded : sum ≤ 1023 * m) :
    (sum + 2 * m) / (4 * m) = 256 ↔ 1022 * m ≤ sum := by
  have atMost := roundedMean_le some_sample bounded
  have reaches := le_roundedMean_iff some_sample 256 sum
  omega

/-! ### Saturation -/

/-- A quotient of 256 is saturated (R58). -/
theorem bandValue_eq_255 {d n sum : Nat} (full : (sum + 2 * d * n) / (4 * d * n) = 256) : bandValue d n sum = 255 := by
  rw [bandValue, full]; rfl

/-- A quotient from 0 to 255 is left as it is (R58). -/
theorem bandValue_eq_quotient {d n sum : Nat} (fits : (sum + 2 * d * n) / (4 * d * n) ≤ 255) :
    bandValue d n sum = (sum + 2 * d * n) / (4 * d * n) :=
  Nat.min_eq_right fits

/-! ### The legal clamp -/

/-- With the clamp off the value stands. -/
@[simp] theorem legalValue_off (lo hi v : Nat) : legalValue false lo hi v = v := rfl

/-- With the clamp on the value is held between the limits. -/
theorem legalValue_on (lo hi v : Nat) : legalValue true lo hi v = max lo (min hi v) := rfl

theorem legalValue_on_below {lo v : Nat} (hi : Nat) (below : v < lo) : legalValue true lo hi v = lo := by
  rw [legalValue_on, Nat.max_eq_left (Nat.le_trans (Nat.min_le_right hi v) below.le)]

theorem legalValue_on_above {lo hi v : Nat} (ordered : lo ≤ hi) (above : hi < v) : legalValue true lo hi v = hi := by
  rw [legalValue_on, Nat.min_eq_left above.le, Nat.max_eq_right ordered]

theorem legalValue_on_inside {lo hi v : Nat} (low : lo ≤ v) (high : v ≤ hi) : legalValue true lo hi v = v := by
  rw [legalValue_on, Nat.min_eq_right high, Nat.max_eq_right low]

/-- Settles O38: the bounds on the quotient over d·n samples, its saturation, and the clamp's three ranges. -/
theorem bandValues : Obligations.BandValues := by
  unfold Obligations.BandValues
  intro d n sum decimation lines _ bounded value saturated
  have some_sample : 0 < d * n := Nat.mul_pos (by omega) lines
  have value_eq : value = (sum + 2 * (d * n)) / (4 * (d * n)) := by simp only [value, Nat.mul_assoc]
  rw [Nat.mul_assoc] at bounded
  refine ⟨?atMost, ?reaches, bandValue_eq_255, bandValue_eq_quotient, fun top limit => ?clamped⟩
  case atMost => exact value_eq ▸ roundedMean_le some_sample bounded
  case reaches =>
    rw [value_eq, Nat.mul_assoc]
    exact roundedMean_eq_256_iff some_sample bounded
  case clamped =>
    have ordered : 16 ≤ top := by omega
    exact ⟨legalValue_off 16 top saturated, legalValue_on_below top, legalValue_on_above ordered, legalValue_on_inside⟩

end Sys2Proof.Machine
end

section
/-! Release values (R85, R86): what `releaseValue` does in each of its three cases, and the shrinking of the window
P − R when R moves. -/

namespace Sys2Proof.Machine

/-! ### Distances between counts modulo 2^32 -/

/-- A count no farther from `old` than `limit` is splits the distance from `old` to `limit` in two. -/
theorem toNat_sub_add_toNat_sub_of_le {v old limit : Count} (within : (v - old).toNat ≤ (limit - old).toNat) :
    (limit - v).toNat + (v - old).toNat = (limit - old).toNat := by
  have split : limit - v = (limit - old) - (v - old) := (sub_sub_sub_cancel_right limit v old).symm
  rw [split, BitVec.toNat_sub_of_le (BitVec.le_def.mpr within), Nat.sub_add_cancel within]

/-- A count that passes the window test is nearer to the limit than the count it replaces. -/
theorem toNat_sub_lt_of_countTaken {v old limit : Count} (taken : countTaken v old limit = true) :
    (limit - v).toNat < (limit - old).toNat := by
  obtain ⟨moves, within⟩ := (countTaken_iff v old limit).mp taken
  have := toNat_sub_add_toNat_sub_of_le within
  omega

/-! ### The cases of a release write -/

/-- A VACANT feed ignores a release write (R85). -/
theorem releaseValue_of_vacant (v : Count) {x : Feed} (vacant : x.life.state = .vacant) : releaseValue v x = x :=
  if_pos vacant

/-- A value that passes the window test becomes R (R86). -/
theorem releaseValue_of_taken {v : Count} {x : Feed} (defined : x.life.state ≠ .vacant)
    (taken : countTaken v x.publisher.released x.publisher.published = true) :
    releaseValue v x = { x with publisher := { x.publisher with released := v } } := by
  rw [releaseValue, if_neg defined, if_pos taken]

/-- A value that fails the window test is counted and changes nothing else (R86). -/
theorem releaseValue_of_not_taken {v : Count} {x : Feed} (defined : x.life.state ≠ .vacant)
    (refused : ¬ countTaken v x.publisher.released x.publisher.published = true) :
    releaseValue v x = x.count fun c => { c with badReleases := bump c.badReleases 1 } := by
  rw [releaseValue, if_neg defined, if_neg refused]

/-- Settles O12: the three cases of a release write, and the smaller distance from a value taken to P. -/
theorem releaseTest : Obligations.ReleaseTest := by
  unfold Obligations.ReleaseTest
  intro v x inWindow
  have taken_iff : countTaken v x.publisher.released x.publisher.published = true ↔ inWindow := countTaken_iff _ _ _
  refine ⟨releaseValue_of_vacant v, fun defined inside => ?taken, fun defined outside => ?counted, fun inside => ?nearer⟩
  case taken => exact releaseValue_of_taken defined (taken_iff.mpr inside)
  case counted => exact releaseValue_of_not_taken defined (mt taken_iff.mp outside)
  case nearer => exact toNat_sub_lt_of_countTaken (taken_iff.mpr inside)

end Sys2Proof.Machine
end

section
/-! The batch size (R98): its five bounds, when it is 0, and that no batch starts then. -/

namespace Sys2Proof.Machine

/-! ### The five bounds -/

/-- The five bounds of R98, in its order. -/
def batchBounds (c : Catalogue) (d : CatalogueDef) : List Nat :=
  [c.staging.length, 16, d.entries - (c.produced - c.consumed).toNat,
    d.entries - c.produced.toNat % d.entries, 64 - c.produced.toNat % 64]

/-- The batch size is the least element of the list of bounds. -/
theorem min?_batchBounds (c : Catalogue) (d : CatalogueDef) : (batchBounds c d).min? = some (batchSize c d) := by
  simp only [batchBounds, batchSize, List.min?_cons', List.foldl_cons, List.foldl_nil, Nat.min_assoc]

/-- The batch size is one of the bounds, and no bound is below it. -/
theorem batchSize_mem_and_le (c : Catalogue) (d : CatalogueDef) :
    batchSize c d ∈ batchBounds c d ∧ ∀ b ∈ batchBounds c d, batchSize c d ≤ b :=
  List.min?_eq_some_iff.mp (min?_batchBounds c d)

/-- The ring end is a 4 KiB boundary, so the next such boundary is no farther than the ring end (R98). -/
theorem boundary_le_ringEnd {entries : Nat} (some_entry : 0 < entries) (blocks : 64 ∣ entries) (w : Nat) :
    64 - w % 64 ≤ entries - w % entries := by
  have place_lt : w % entries < entries := Nat.mod_lt w some_entry
  have same_offset : w % entries % 64 = w % 64 := Nat.mod_mod_of_dvd w blocks
  omega

/-- Only the first and the third bound can be 0, so these two alone make the batch size 0 (R98). -/
theorem batchSize_eq_zero_iff {c : Catalogue} {d : CatalogueDef} (some_entry : 0 < d.entries)
    (window : (c.produced - c.consumed).toNat ≤ d.entries) :
    batchSize c d = 0 ↔ c.staging = [] ∨ (c.produced - c.consumed).toNat = d.entries := by
  have ringEnd : c.produced.toNat % d.entries < d.entries := Nat.mod_lt _ some_entry
  have boundary : c.produced.toNat % 64 < 64 := Nat.mod_lt _ (by decide)
  simp only [← List.length_eq_zero_iff, batchSize, Config.batchLimit]
  omega

/-! ### No batch of size 0 -/

/-- A start test that passes found a batch size of at least 1 (R96). -/
theorem batchSize_pos_of_batchReady {s : State} {d : CatalogueDef} (ready : batchReady s d = true) :
    1 ≤ batchSize s.catalogue d := by
  simp only [batchReady, Bool.and_eq_true, decide_eq_true_eq] at ready
  obtain ⟨⟨_, some_record⟩, _⟩ := ready
  exact some_record

/-- The start test changes nothing while the batch size is 0. -/
theorem startBatch_of_batchSize_eq_zero {s : State} {d : CatalogueDef} (defined : s.catalogue.defn = some d)
    (zero_size : batchSize s.catalogue d = 0) : startBatch s = s := by
  obtain unchanged | ⟨d', defined', ready, -⟩ := startBatch_cases s
  · exact unchanged
  · obtain rfl : d' = d := Option.some.inj (defined'.symm.trans defined)
    have := batchSize_pos_of_batchReady ready
    omega

/-- BATCH_START is the start test as a step (log 5). -/
theorem exec_batchStart (s : State) : exec .batchStart s = .next (startBatch s) := rfl

/-- FLUSH_TIMEOUT_EXPIRY makes the start test once the timeout has expired. -/
theorem exec_flushTimeoutExpiry (s : State) :
    exec .flushTimeoutExpiry s = .next (if flushExpired s then startBatch s else s) := rfl

/-- Settles O42: the least of the list of bounds, the ring end as a multiple of 64 entries, and the start test at 0. -/
theorem batchSizeLeast : Obligations.BatchSizeLeast := by
  unfold Obligations.BatchSizeLeast
  rintro c d ⟨k, -, entries_eq⟩ window bounds
  have some_entry : 0 < d.entries := entries_eq ▸ Nat.mul_pos (by decide) (Nat.two_pow_pos k)
  have blocks : 64 ∣ d.entries := ⟨2 ^ k, entries_eq⟩
  obtain ⟨is_bound, least⟩ := batchSize_mem_and_le c d
  refine ⟨least, is_bound, boundary_le_ringEnd some_entry blocks _, batchSize_eq_zero_iff some_entry window, ?idle⟩
  case idle =>
    rintro zero_size s rfl defined
    have unchanged : startBatch s = s := startBatch_of_batchSize_eq_zero defined zero_size
    rw [exec_batchStart, exec_flushTimeoutExpiry, unchanged, ite_self]
    exact ⟨rfl, rfl⟩

end Sys2Proof.Machine
end

section
/-! What a step is made of: the moves of one feed, the moves of the part, and the walk that shows every operation to be a
sequence of them. Each invariant is then proved once per move. -/

namespace Sys2Proof.Machine

/-! ### The moves of one feed -/

/-- A row store whose items are changed one by one, none moving to another buffer, and from which ended items may leave. -/
def RowStore.Quiet (r r' : RowStore) : Prop :=
  ∃ g : RowItem → RowItem, (∀ i, (g i).buffer = i.buffer) ∧
    (r' = { r with items := r.items.map g } ∨ r' = RowStore.sweep { r with items := r.items.map g })

/-- A change that moves no lifecycle state, definition, window, browse count or serial of a feed, keeps each of its records
in its state with its slot, and starts no parser. -/
structure Feed.Quiet (x y : Feed) : Prop where
  state : y.life.state = x.life.state
  defn : y.life.defn = x.life.defn
  ingest : y.ingest = x.ingest
  browse : y.browse = x.browse
  records : ∃ g : FrameRecord → FrameRecord, y.frame.records = x.frame.records.map g
    ∧ ∀ r, (g r).state = r.state ∧ (g r).slot = r.slot ∧ (g r).serial = r.serial
  openFrame : y.frame.openFrame = x.frame.openFrame
  nextSerial : y.frame.nextSerial = x.frame.nextSerial
  assigned : y.publisher.assigned = x.publisher.assigned
  published : y.publisher.published = x.publisher.published
  released : y.publisher.released = x.publisher.released
  parse : y.parse.state = .idle ∨ x.parse.state ≠ .idle
  rows : x.rows.Quiet y.rows

/-- The feed after a row was handed to the row store from buffer `b` (R64). -/
def handedFeed (ident : Nat) (r : FrameRecord) (slot : Nat) (b : BufferId) (x : Feed) : Feed :=
  Feed.onOpen (fun q => { q with rowsQueued := q.rowsQueued + 1 })
    { x with rows := { x.rows with items := x.rows.items ++ [rowItem ident x.params r slot x.reducer.band b] },
             reducer := x.reducer.nextBand (r.height / x.params.decimation) }

/-- The feed after the abandonment of the browse of its open frame `r` (R73, R74). -/
def abandonedFeed (r : FrameRecord) (x : Feed) : Feed :=
  Feed.onOpen (fun q => { q with reason := .abandoned, slot := none })
    { x with rows := x.rows.change (fun i => decide (i.serial = r.serial)) dealItem,
             publisher := { x.publisher with assigned := x.publisher.assigned - 1 },
             reducer := x.reducer.leave }

/-- The feed after its tracked open frame's record became CLOSED (R42). -/
def closedFeed (x : Feed) : Feed :=
  { x.onOpen (fun r => { r with state := .closed }) with
    frame := { (x.onOpen fun r => { r with state := .closed }).frame with openFrame := .none } }

/-- The feed after its untracked open frame closed (R42). -/
def forgetFrame (x : Feed) : Feed := { x with frame := { x.frame with openFrame := .none } }

/-- The feed after its head record `r` was DONE, `rest` behind it (R46). -/
def finishedFeed (r : FrameRecord) (rest : List FrameRecord) (x : Feed) : Feed :=
  Feed.count (countDone r) { x with frame := { x.frame with records := rest } }

/-- The feed after its head record was SEALING, `rest` behind it (R45). -/
def sealedFeed (r : FrameRecord) (rest : List FrameRecord) (x : Feed) : Feed :=
  { x with frame := { x.frame with records := { r with state := .sealing } :: rest } }

/-- The feed after its count P moved by one, its publish word in state `word` (R81). -/
def publishedFeed (word : WordState) (x : Feed) : Feed :=
  { x with publisher := { x.publisher with published := x.publisher.published + 1, word := word } }

/-- The moves of one feed. Only a `free` one moves P. -/
inductive FeedMove (free : Bool) : Feed → Feed → Prop
  | trans {x y z : Feed} : FeedMove free x y → FeedMove free y z → FeedMove free x z
  | quiet {x y : Feed} : x.Quiet y → FeedMove free x y
  | hold {x : Feed} {r : FrameRecord} {slot : Nat} (ident : Nat) (b : BufferId) : x.parse.state ≠ .idle →
      x.openRecord = some r → r.slot = some slot → FeedMove free x (handedFeed ident r slot b (holdBuffer b x))
  | fill {x : Feed} {r : FrameRecord} {slot : Nat} {b : BufferId} (ident : Nat) (row : List Byte) :
      x.parse.state ≠ .idle → x.openRecord = some r → r.slot = some slot → (x.rows.buffer b).useCount = 0 →
      FeedMove free x (handedFeed ident r slot b (fillBuffer b row x))
  | abandon {x : Feed} {r : FrameRecord} {slot : Nat} : x.openRecord = some r → r.slot = some slot →
      FeedMove free x (abandonedFeed r x)
  | close {x : Feed} : x.frame.openFrame = .tracked → FeedMove free x (closedFeed x)
  | forget {x : Feed} : x.frame.openFrame = .untracked → FeedMove free x (forgetFrame x)
  | opening {x : Feed} (stamp : Time) (addr : Addr) (h : EssenceHeader) : x.frame.openFrame = .none →
      FeedMove free x (openFrame stamp addr h x)
  | finish {x : Feed} {r : FrameRecord} {rest : List FrameRecord} : x.frame.records = r :: rest → r.state = .closed →
      r.slot = none → FeedMove free x (finishedFeed r rest x)
  | sealing {x : Feed} {r : FrameRecord} {rest : List FrameRecord} {slot : Nat} : x.frame.records = r :: rest →
      r.state = .closed → r.slot = some slot → FeedMove free x (sealedFeed r rest x)
  | header {x : Feed} {r : FrameRecord} {rest : List FrameRecord} (word : WordState) : free = true →
      x.frame.records = r :: rest → r.state = .sealing →
      FeedMove free x (finishedFeed r rest (publishedFeed word x))
  | discard {x : Feed} (publishing : Bool) : FeedMove free x (discardFeed publishing x)
  | release {x : Feed} {v : Count} : countTaken v x.publisher.released x.publisher.published = true →
      FeedMove free x { x with publisher := { x.publisher with released := v } }
  | lifecycle {x : Feed} {v : FeedState} : x.life.state ≠ .vacant → v ≠ .vacant → v ≠ .defined →
      (v = .faulted → x.parse.state = .idle) → FeedMove free x (setFeedState v x)
  | wake {x : Feed} (c : ParseContext) : x.life.state ≠ .vacant → x.life.state ≠ .defined → x.life.state ≠ .faulted →
      FeedMove free x { x with parse := c }
  | vacate {x : Feed} : (x.life.state = .defined ∨ (x.rows.items = [] ∧ x.parse.state = .idle)) →
      FeedMove free x (vacate x)
  | clear {x : Feed} : free = true → FeedMove free x (clearFeed x)

/-! ### The moves of the part -/

/-- Only the tap queue, the command unit, the credit count, the engine condition, the ports and the name of the next item
have moved, the queues within their bounds. -/
structure Outside (s t : State) : Prop where
  pending : t.pending = s.pending
  straps : t.straps = s.straps
  timeBase : t.timeBase = s.timeBase
  forwardQ : t.forwardQ = s.forwardQ
  tags : t.tags = s.tags
  insQ : t.insQ = s.insQ
  nextAge : t.nextAge = s.nextAge
  catalogue : t.catalogue = s.catalogue
  notices : t.notices = s.notices
  feeds : t.feeds = s.feeds
  tapQ : t.tapQ.length ≤ max s.tapQ.length Config.tapCapacity
  commands : t.commands.queue.length ≤ max s.commands.queue.length Config.commandCapacity
  credit : t.credit ≤ s.credit

/-- The moves of the part. Only a `free` one moves a count P. -/
inductive Run (free : Bool) : State → State → Prop
  | trans {s t u : State} : Run free s t → Run free t u → Run free s u
  | outside {s t : State} : Outside s t → Run free s t
  | feed {s : State} {f : FeedId} {y : Feed} : FeedMove free (s.feed f) y → Run free s (s.setFeed f y)
  | allFeeds {s : State} {g : Feed → Feed} : (∀ x, FeedMove free x (g x)) → Run free s { s with feeds := s.feeds.map g }
  | define {s : State} {f : FeedId} {p : FeedParams} : free = true → defineResult f p s = .done →
      Run free s (s.modFeed f (definedFeed p))
  | make {s : State} {d : EntryDraft} : kindFits d.source d.kind = true → d.kind ≠ .notice → Run free s (makeEntry d s)
  | withdraw {s : State} (p : InsEntry → Bool) : Run free s (withdraw p s)
  | replace {s : State} (w : WordId) (v : Count) : Run free s { s with
      insQ := s.insQ.map fun e => if w.owns e then { e with data := .word v } else e }
  | catalogue {s : State} {c : Catalogue} : c.defn = s.catalogue.defn → c.region = s.catalogue.region →
      c.staging = s.catalogue.staging → c.produced = s.catalogue.produced → c.consumed = s.catalogue.consumed →
      (c.batch = s.catalogue.batch ∨ c.batch = none) → Run free s { s with catalogue := c }
  | index {s : State} (r : StagedRecord) : s.catalogue.staging.length < Config.stagingCapacity → Run free s { s with
      catalogue := { s.catalogue with staging := s.catalogue.staging ++ [r] } }
  | startBatch {s : State} : Run free s (startBatch s)
  | batchDone {s : State} {b : Batch} : s.catalogue.batch = some b → Run free s { s with catalogue := { s.catalogue with
      produced := s.catalogue.produced + BitVec.ofNat 32 b.size, staging := s.catalogue.staging.drop b.size,
      batch := none } }
  | indexConsumed {s : State} {v : Count} : countTaken v s.catalogue.consumed s.catalogue.produced = true →
      Run free s { s with catalogue := { s.catalogue with consumed := v } }
  | ring {s : State} {p : CatalogueParams} : catalogueResult p s = .done →
      Run free s { s with catalogue := setCatalogueTo p s.catalogue }
  | noRing {s : State} : Run free s { s with catalogue := Catalogue.reset }
  | notices {s : State} {n : NoticeWriter} : n.produced = s.notices.produced → n.consumed = s.notices.consumed →
      n.staging.length ≤ max s.notices.staging.length Config.noticeCapacity → Run free s { s with notices := n }
  | makeNotice {s : State} : Run free s (makeNoticeEntry s)
  | noticeConsumed {s : State} {v : Count} : countTaken v s.notices.consumed s.notices.produced = true →
      Run free s { s with notices := { s.notices with consumed := v } }
  | noNotices {s : State} : Run free s { s with notices := NoticeWriter.reset }
  | untag {s : State} {t : Tag} : s.tags[t] ≠ .insertion ∨ entryOn s.insQ t = none → Run free s (s.setTag t .free)
  | issue {s : State} {e : InsEntry} {t : Tag} : e ∈ s.insQ → e.state = .queued → s.tags[t] = .free →
      Run free s { s with
        insQ := changeEntry e.age (fun x => { x with state := .issued t }) s.insQ, tags := s.tags.set t .insertion }
  | retry {s : State} {e : InsEntry} {t : Tag} (d : DataRef) : s.tags[t] = .insertion → entryOn s.insQ t = some e →
      Run free s { s with
        tags := s.tags.set t .free
        insQ := s.insQ |> changeEntry e.age fun x => { x with state := .queued, attempt := x.attempt + 1, data := d } }
  | drop {s : State} {e : InsEntry} {t : Tag} : s.tags[t] = .insertion → entryOn s.insQ t = some e →
      Run free s (s.freed e t)
  | noticeDone {s : State} {e : InsEntry} {t : Tag} : s.tags[t] = .insertion → entryOn s.insQ t = some e →
      e.kind = .notice → Run free s { s.freed e t with notices := { s.notices with
        produced := s.notices.produced + 1, staging := s.notices.staging.tail } }
  | firstAge {s : State} (n : Nat) : s.insQ = [] → Run free s { s with nextAge := n }

/-! ### Quiet changes -/

theorem RowStore.Quiet.refl (r : RowStore) : r.Quiet r := ⟨id, fun _ => rfl, .inl (by simp)⟩

theorem RowStore.quiet_markPart (ref : RowRef) (v : PartState) (r : RowStore) : r.Quiet (r.markPart ref v) :=
  ⟨_, fun i => by split <;> rfl, .inl rfl⟩

/-- Items changed in their buffers, and those that ended gone. -/
theorem RowStore.quiet_change {g : RowItem → RowItem} (which : RowItem → Bool) (r : RowStore)
    (kept : ∀ i, (g i).buffer = i.buffer) : r.Quiet (r.change which g) :=
  ⟨_, fun i => by split <;> simp [kept], .inr rfl⟩

theorem RowStore.quiet_answer (ref : RowRef) (r : RowStore) : r.Quiet (r.markPart ref .answered).sweep :=
  ⟨_, fun i => by split <;> rfl, .inr rfl⟩

/-- Records left as they are. -/
theorem records_quiet_refl (l : List FrameRecord) : ∃ g : FrameRecord → FrameRecord, l = l.map g
    ∧ ∀ r, (g r).state = r.state ∧ (g r).slot = r.slot ∧ (g r).serial = r.serial :=
  ⟨id, by simp, fun _ => ⟨rfl, rfl, rfl⟩⟩

theorem Feed.Quiet.refl (x : Feed) : x.Quiet x :=
  ⟨rfl, rfl, rfl, rfl, records_quiet_refl _, rfl, rfl, rfl, rfl, rfl, Decidable.em _, RowStore.Quiet.refl _⟩

/-- The reducer is no part of what a quiet change keeps. -/
theorem Feed.quiet_reducer (x : Feed) (r : Reducer) : x.Quiet { x with reducer := r } :=
  ⟨rfl, rfl, rfl, rfl, records_quiet_refl _, rfl, rfl, rfl, rfl, rfl, Decidable.em _, RowStore.Quiet.refl _⟩

theorem Feed.quiet_rows (x : Feed) {r : RowStore} (h : x.rows.Quiet r) : x.Quiet { x with rows := r } :=
  ⟨rfl, rfl, rfl, rfl, records_quiet_refl _, rfl, rfl, rfl, rfl, rfl, Decidable.em _, h⟩

theorem Feed.quiet_life (x : Feed) {l : Lifecycle} (h1 : l.state = x.life.state) (h2 : l.defn = x.life.defn) :
    x.Quiet { x with life := l } :=
  ⟨h1, h2, rfl, rfl, records_quiet_refl _, rfl, rfl, rfl, rfl, rfl, Decidable.em _, RowStore.Quiet.refl _⟩

theorem Feed.quiet_count (k : Counters → Counters) (x : Feed) : x.Quiet (x.count k) := Feed.quiet_life x rfl rfl

/-- A parse context that runs may move, and one that is IDLE stays so. -/
theorem Feed.quiet_onParse {k : ParseContext → ParseContext} {x : Feed}
    (h : (k x.parse).state = .idle ∨ x.parse.state ≠ .idle) : x.Quiet (x.onParse k) :=
  ⟨rfl, rfl, rfl, rfl, records_quiet_refl _, rfl, rfl, rfl, rfl, rfl, h, RowStore.Quiet.refl _⟩

/-- Changing the OPEN record in anything but its state, slot and serial is quiet. -/
theorem Feed.quiet_onOpen (x : Feed) {g : FrameRecord → FrameRecord}
    (h : ∀ r, (g r).state = r.state ∧ (g r).slot = r.slot ∧ (g r).serial = r.serial) : x.Quiet (x.onOpen g) :=
  ⟨rfl, rfl, rfl, rfl, ⟨_, rfl, fun r => by split; exacts [h r, ⟨rfl, rfl, rfl⟩]⟩, rfl, rfl, rfl, rfl, rfl,
   Decidable.em _, RowStore.Quiet.refl _⟩

/-- Changing every record in anything but its state, slot and serial is quiet. -/
theorem Feed.quiet_records (x : Feed) {g : FrameRecord → FrameRecord}
    (h : ∀ r, (g r).state = r.state ∧ (g r).slot = r.slot ∧ (g r).serial = r.serial) :
    x.Quiet { x with frame := { x.frame with records := x.frame.records.map g } } :=
  ⟨rfl, rfl, rfl, rfl, ⟨g, rfl, h⟩, rfl, rfl, rfl, rfl, rfl, Decidable.em _, RowStore.Quiet.refl _⟩

theorem FrameRecord.flag_quiet (c : Condition) (r : FrameRecord) :
    (r.flag c).state = r.state ∧ (r.flag c).slot = r.slot ∧ (r.flag c).serial = r.serial := ⟨rfl, rfl, rfl⟩

theorem FrameRecord.flagIf_quiet (b : Bool) (c : Condition) (r : FrameRecord) :
    (r.flagIf b c).state = r.state ∧ (r.flagIf b c).slot = r.slot ∧ (r.flagIf b c).serial = r.serial := by
  unfold FrameRecord.flagIf; split <;> exact ⟨rfl, rfl, rfl⟩

theorem Feed.quiet_countLength (n : Nat) (x : Feed) : x.Quiet (countLength n x) := by
  unfold countLength
  split
  · exact x.quiet_onOpen fun _ => ⟨rfl, rfl, rfl⟩
  · exact .refl x

theorem Feed.quiet_discardLine (x : Feed) : x.Quiet (discardLine x) := by
  obtain h | h := discardLine_cases x <;> rw [h]
  exacts [.refl x, x.quiet_reducer _]

/-- The parser's stop is quiet. -/
theorem Feed.quiet_idleFeed (x : Feed) : x.Quiet (idleFeed x) :=
  ⟨by simp, by simp, by simp, by simp, by simpa using records_quiet_refl _, by simp, by simp, by simp, by simp, by simp,
   .inl (by simp), by simpa using RowStore.Quiet.refl _⟩

/-- Turning a payload to SKIP is quiet. -/
theorem move_skipPayload {b : Bool} (x : Feed) : FeedMove b x (skipPayload x) := by
  unfold skipPayload
  refine .trans (.quiet x.quiet_discardLine) ?_
  dsimp only
  split
  · exact .quiet (Feed.quiet_onParse (k := fun c => { c with packet := _ }) (Decidable.em _))
  · exact .quiet (Feed.quiet_onParse (k := fun c => { c with packet := _ }) (Decidable.em _))
  · exact .quiet (.refl _)

/-- Noting a gap is quiet. -/
theorem move_noteGap {b : Bool} (gap : Nat) (x : Feed) : FeedMove b x (noteGap gap x) := by
  unfold noteGap
  dsimp only
  split
  · exact .quiet (.refl x)
  · split
    · exact .trans (.quiet (x.quiet_count _)) (.quiet (Feed.quiet_onOpen _ fun r => ⟨rfl, rfl, rfl⟩))
    · exact .quiet (x.quiet_count _)

end Sys2Proof.Machine
end

section
/-! The walk: every operation of a feed's blocks, of the parser and of a fault is a run of moves. -/

namespace Sys2Proof.Machine

/-! ### Runs -/

theorem Outside.refl (s : State) : Outside s s :=
  ⟨rfl, rfl, rfl, rfl, rfl, rfl, rfl, rfl, rfl, rfl, Nat.le_max_left _ _, Nat.le_max_left _ _, Nat.le_refl _⟩

theorem Run.refl {b : Bool} (s : State) : Run b s s := .outside (.refl s)

theorem outside_nextRowId (s : State) (n : Nat) : Outside s { s with nextRowId := n } :=
  ⟨rfl, rfl, rfl, rfl, rfl, rfl, rfl, rfl, rfl, rfl, Nat.le_max_left _ _, Nat.le_max_left _ _, Nat.le_refl _⟩

theorem outside_tapQ (s : State) {q : List TapEntry} (h : q.length ≤ max s.tapQ.length Config.tapCapacity) :
    Outside s { s with tapQ := q } :=
  ⟨rfl, rfl, rfl, rfl, rfl, rfl, rfl, rfl, rfl, rfl, h, Nat.le_max_left _ _, Nat.le_refl _⟩

theorem outside_commands (s : State) {c : CommandUnit}
    (h : c.queue.length ≤ max s.commands.queue.length Config.commandCapacity) : Outside s { s with commands := c } :=
  ⟨rfl, rfl, rfl, rfl, rfl, rfl, rfl, rfl, rfl, rfl, Nat.le_max_left _ _, h, Nat.le_refl _⟩

theorem Run.modFeed {b : Bool} {s : State} {f : FeedId} {k : Feed → Feed} (h : FeedMove b (s.feed f) (k (s.feed f))) :
    Run b s (s.modFeed f k) := .feed h

/-- A quiet change of one feed. -/
theorem Run.quiet {b : Bool} {s : State} {f : FeedId} {k : Feed → Feed} (h : (s.feed f).Quiet (k (s.feed f))) :
    Run b s (s.modFeed f k) := .feed (.quiet h)

/-! ### Queues -/

theorem run_stageNotice {b : Bool} (body : NoticeBody) {s : State} (room : s.notices.staging.length < 8) :
    Run b s (stageNotice body s) := by
  have staged : Run b s (appendNotice body s) :=
    .notices rfl rfl (by simp only [List.length_append, List.length_cons, List.length_nil, Config.noticeCapacity]; omega)
  exact staged.trans .makeNotice

theorem run_stageEvent {b : Bool} (body : NoticeBody) (s : State) : Run b s (stageEvent body s) := by
  unfold stageEvent State.noticeRoom
  split
  · rename_i room
    exact run_stageNotice body (of_decide_eq_true room)
  · exact .notices rfl rfl (Nat.le_max_left _ _)

theorem run_stageIndex {b : Bool} (r : IndexRecord) (s : State) : Run b s (stageIndex r s) := by
  obtain ⟨room, h⟩ | ⟨-, h⟩ := stageIndex_cases r s <;> rw [h]
  · have staged : Run b s (appendIndex r s) :=
      (Run.catalogue (c := { s.catalogue with lost := 0 }) rfl rfl rfl rfl rfl (.inl rfl)).trans (.index _ room)
    exact staged.trans .startBatch
  · exact .catalogue rfl rfl rfl rfl rfl (.inl rfl)

theorem run_setWord {b : Bool} (w : WordId) (v : WordState) (s : State) : Run b s (setWord w v s) := by
  cases w with
  | publish f =>
    exact Run.feed (.quiet ⟨rfl, rfl, rfl, rfl, records_quiet_refl _, rfl, rfl, rfl, rfl, rfl, Decidable.em _,
      RowStore.Quiet.refl (s.feed f).rows⟩)
  | catalogue => exact .catalogue rfl rfl rfl rfl rfl (.inl rfl)
  | notice => exact .notices rfl rfl (Nat.le_max_left _ _)

/-- A word's kind is one of its source's. -/
theorem WordId.fits (w : WordId) : kindFits w.source w.kind = true := by cases w <;> rfl

theorem WordId.kind_ne_notice (w : WordId) : w.kind ≠ .notice := by cases w <;> simp [WordId.kind]

theorem run_queueWord {b : Bool} (w : WordId) (s : State) : Run b s (queueWord w s) :=
  (Run.make (d := wordDraft w s) w.fits w.kind_ne_notice).trans (run_setWord w _ _)

theorem run_updateWord {b : Bool} (w : WordId) (s : State) : Run b s (updateWord w s) := by
  unfold updateWord
  split
  · exact run_queueWord w s
  · exact .replace w _
  · exact run_setWord w _ s
  · exact .refl s

theorem run_wordAnswered {b : Bool} (w : WordId) (v : Count) (s : State) : Run b s (wordAnswered w v s) := by
  unfold wordAnswered
  split
  · exact run_queueWord w s
  · exact run_setWord w _ s

/-! ### What bands, closes and settles leave of their feed -/

/-- A feed's parser, windows and lifecycle are as they were but for its counters, and so are its frame unit but for the
records and the open frame, and its publisher but for A. -/
structure Framed (x y : Feed) : Prop where
  parse : y.parse = x.parse
  missPending : y.missPending = x.missPending
  ingest : y.ingest = x.ingest
  browse : y.browse = x.browse
  life : { y.life with counters := Counters.zero } = { x.life with counters := Counters.zero }
  frame : { y.frame with records := [], openFrame := .none } = { x.frame with records := [], openFrame := .none }
  publisher : { y.publisher with assigned := 0 } = { x.publisher with assigned := 0 }

theorem Framed.refl (x : Feed) : Framed x x := ⟨rfl, rfl, rfl, rfl, rfl, rfl, rfl⟩

theorem Framed.trans {x y z : Feed} (h : Framed x y) (k : Framed y z) : Framed x z :=
  ⟨k.1.trans h.1, k.2.trans h.2, k.3.trans h.3, k.4.trans h.4, k.5.trans h.5, k.6.trans h.6, k.7.trans h.7⟩

/-- A feed framed works by the same parameters. -/
theorem Framed.params {x y : Feed} (h : Framed x y) : y.params = x.params := by
  have same := congrArg Lifecycle.defn h.life
  exact congrArg (fun d : Option FeedDef => d.getD FeedDef.zero) same

theorem Framed.retirePending {x y : Feed} (h : Framed x y) : y.frame.retirePending = x.frame.retirePending := by
  have same := congrArg FrameUnit.retirePending h.frame
  exact same

theorem framed_completeBand (f : FeedId) (s : State) : Framed (s.feed f) ((completeBand f s).feed f) := by
  have handed : ∀ (r : FrameRecord) (slot : Nat) (b : BufferId) (k : Feed → Feed), Framed (s.feed f) (k (s.feed f)) →
      Framed (s.feed f) ((handRow f r slot b (s.modFeed f k)).feed f) := by
    intro r slot b k h
    have e : (handRow f r slot b (s.modFeed f k)).feed f = handedFeed s.nextRowId r slot b (k (s.feed f)) := by
      show ((s.modFeed f k).setFeed f (handedFeed s.nextRowId r slot b ((s.modFeed f k).feed f))).feed f = _
      simp
    rw [e]
    exact h.trans ⟨rfl, rfl, rfl, rfl, rfl, rfl, rfl⟩
  unfold completeBand
  dsimp only
  repeat' split
  · exact .refl _
  · exact .refl _
  · exact .refl _
  · exact handed _ _ _ _ ⟨rfl, rfl, rfl, rfl, rfl, rfl, rfl⟩
  · rw [abandon, State.feed_modFeed_self, withdraw_feed]
    exact ⟨rfl, rfl, rfl, rfl, rfl, rfl, rfl⟩
  · exact handed _ _ _ _ ⟨rfl, rfl, rfl, rfl, rfl, rfl, rfl⟩

/-- A band's completion opens and closes no frame. -/
theorem completeBand_openFrame (f : FeedId) (s : State) :
    ((completeBand f s).feed f).frame.openFrame = (s.feed f).frame.openFrame := by
  have handed : ∀ (r : FrameRecord) (slot : Nat) (b : BufferId) (u : State),
      ((handRow f r slot b u).feed f).frame.openFrame = (u.feed f).frame.openFrame := fun r slot b u => by
    show ((u.setFeed f (handedFeed u.nextRowId r slot b (u.feed f))).feed f).frame.openFrame = _
    simp [handedFeed, Feed.onOpen]
  unfold completeBand
  dsimp only
  repeat' split
  · rfl
  · rfl
  · rfl
  · rw [handed, State.feed_modFeed_self]; rfl
  · rw [abandon, State.feed_modFeed_self, withdraw_feed]; rfl
  · rw [handed, State.feed_modFeed_self]; rfl

theorem framed_completeBands (f : FeedId) (k : Nat) (s : State) : Framed (s.feed f) ((completeBands f k s).feed f) := by
  induction k generalizing s with
  | zero => exact .refl _
  | succ k ih =>
    rw [completeBands]
    split
    · exact (framed_completeBand f s).trans (ih _)
    · exact .refl _

theorem completeBands_openFrame (f : FeedId) (k : Nat) (s : State) :
    ((completeBands f k s).feed f).frame.openFrame = (s.feed f).frame.openFrame := by
  induction k generalizing s with
  | zero => rfl
  | succ k ih =>
    rw [completeBands]
    split
    · rw [ih, completeBand_openFrame]
    · rfl

theorem framed_closeBands (f : FeedId) (height : Nat) (s : State) :
    Framed (s.feed f) ((closeBands f height s).feed f) := by
  refine Framed.trans ?_ (framed_completeBands f _ _)
  rw [State.feed_modFeed_self]
  exact ⟨rfl, rfl, rfl, rfl, rfl, rfl, rfl⟩

theorem closeBands_openFrame (f : FeedId) (height : Nat) (s : State) :
    ((closeBands f height s).feed f).frame.openFrame = (s.feed f).frame.openFrame := by
  rw [closeBands, completeBands_openFrame, State.feed_modFeed_self]

theorem framed_reduceLine (f : FeedId) (line : Nat) (s : State) : Framed (s.feed f) ((reduceLine f line s).feed f) := by
  unfold reduceLine
  dsimp only
  split
  · rw [State.feed_modFeed_self]
    exact (framed_completeBands f _ s).trans ⟨rfl, rfl, rfl, rfl, rfl, rfl, rfl⟩
  · exact framed_completeBands f _ s

theorem finishHead_feed (f : FeedId) (r : FrameRecord) (rest : List FrameRecord) (s : State) :
    (finishHead f r rest s).feed f = finishedFeed r rest (s.feed f) := by
  rw [finishHead, stageIndex_feed, State.feed_modFeed_self]
  rfl

theorem sealHead_feed (f : FeedId) (r : FrameRecord) (rest : List FrameRecord) (slot : Nat) (s : State) :
    (sealHead f r rest slot s).feed f = sealedFeed r rest (s.feed f) := by
  rw [sealHead, State.feed_modFeed_self, makeEntry_feed]
  rfl

/-- Settling a list moves its records and their counters alone. -/
theorem settle_kept (f : FeedId) (k : Nat) (s : State) :
    Framed (s.feed f) ((settle f k s).feed f)
      ∧ ((settle f k s).feed f).frame.openFrame = (s.feed f).frame.openFrame
      ∧ ((settle f k s).feed f).publisher = (s.feed f).publisher ∧ ((settle f k s).feed f).rows = (s.feed f).rows
      ∧ ((settle f k s).feed f).reducer = (s.feed f).reducer := by
  induction k generalizing s with
  | zero => exact ⟨.refl _, rfl, rfl, rfl, rfl⟩
  | succ k ih =>
    rw [settle]
    repeat' split
    · exact ⟨.refl _, rfl, rfl, rfl, rfl⟩
    · rename_i r rest _ _ _ _
      obtain ⟨h, h1, h2, h3, h4⟩ := ih (finishHead f r rest s)
      rw [finishHead_feed] at h h1 h2 h3 h4
      have popped : Framed (s.feed f) (finishedFeed r rest (s.feed f)) := ⟨rfl, rfl, rfl, rfl, rfl, rfl, rfl⟩
      exact ⟨popped.trans h, h1, h2, h3, h4⟩
    · rw [sealHead_feed]
      exact ⟨⟨rfl, rfl, rfl, rfl, rfl, rfl, rfl⟩, rfl, rfl, rfl, rfl⟩
    · exact ⟨.refl _, rfl, rfl, rfl, rfl⟩

theorem framed_settleFeed (f : FeedId) (s : State) : Framed (s.feed f) ((settleFeed f s).feed f) :=
  (settle_kept f _ s).1

theorem settleFeed_openFrame (f : FeedId) (s : State) :
    ((settleFeed f s).feed f).frame.openFrame = (s.feed f).frame.openFrame :=
  (settle_kept f _ s).2.1

/-- The close of a tracked frame, its three stages named: the record's fields, the bands that remain, and CLOSED. -/
theorem closeTracked_eq (f : FeedId) (cause : CloseCause) (s : State) :
    ∃ marked banded : State,
      marked = s.setFeed f ((s.feed f).onOpen (closingRecord cause (s.feed f).frame.peaks))
      ∧ (banded = marked ∨ ∃ height, banded = closeBands f height marked)
      ∧ closeTracked f cause s = settleFeed f (banded.modFeed f closedFeed) := by
  refine ⟨_, _, rfl, ?_, rfl⟩
  split
  · split
    · exact .inr ⟨_, rfl⟩
    · exact .inl rfl
  · exact .inl rfl

theorem framed_closeTracked (f : FeedId) (cause : CloseCause) (s : State) :
    Framed (s.feed f) ((closeTracked f cause s).feed f)
      ∧ ((closeTracked f cause s).feed f).frame.openFrame = .none := by
  obtain ⟨marked, banded, rfl, hb, h⟩ := closeTracked_eq f cause s
  have through : Framed (s.feed f) (banded.feed f) := by
    have first : Framed (s.feed f) ((s.setFeed f ((s.feed f).onOpen (closingRecord cause (s.feed f).frame.peaks))).feed f) := by
      rw [State.feed_setFeed_self]; exact ⟨rfl, rfl, rfl, rfl, rfl, rfl, rfl⟩
    obtain rfl | ⟨height, rfl⟩ := hb
    · exact first
    · exact first.trans (framed_closeBands f height _)
  rw [h, settleFeed_openFrame, State.feed_modFeed_self]
  refine ⟨?_, rfl⟩
  refine Framed.trans ?_ (framed_settleFeed f _)
  rw [State.feed_modFeed_self]
  exact through.trans ⟨rfl, rfl, rfl, rfl, rfl, rfl, rfl⟩

/-- A close leaves no frame open. -/
theorem closeFrame_openFrame (f : FeedId) (cause : CloseCause) (s : State) :
    ((closeFrame f cause s).feed f).frame.openFrame = .none := by
  unfold closeFrame
  dsimp only
  repeat' split
  · assumption
  · rw [stopParser_feed_self, idleFeed_frame]; exact (framed_closeTracked f cause s).2
  · exact (framed_closeTracked f cause s).2
  · rw [stopParser_feed_self, idleFeed_frame, State.feed_modFeed_self]
  · rw [State.feed_modFeed_self]

/-! ### Bands and frames as runs -/

section
variable {b : Bool} (f : FeedId)

/-- A row handed on by a feed that was changed before. -/
theorem run_handRow {s : State} {r : FrameRecord} {slot : Nat} {c : BufferId} {k : Feed → Feed}
    (h : FeedMove b (s.feed f) (handedFeed s.nextRowId r slot c (k (s.feed f)))) :
    Run b s (handRow f r slot c (s.modFeed f k)) := by
  have e : handRow f r slot c (s.modFeed f k) =
      { s.setFeed f (handedFeed s.nextRowId r slot c (k (s.feed f))) with nextRowId := s.nextRowId + 1 } := by
    show { (s.modFeed f k).setFeed f (handedFeed s.nextRowId r slot c ((s.modFeed f k).feed f)) with
      nextRowId := s.nextRowId + 1 } = _
    rw [State.feed_modFeed_self, State.modFeed, State.setFeed_setFeed]
  rw [e]
  exact (Run.feed h).trans (.outside (outside_nextRowId _ _))

/-- A buffer chosen is free. -/
theorem chooseBuffer_free {r : RowStore} {ref : Option BufferId} {c : BufferId} (h : chooseBuffer r ref = some c) :
    (r.buffer c).useCount = 0 := by
  unfold chooseBuffer at h
  split at h
  · split at h
    · cases c <;> assumption
    · cases h; assumption
  · split at h
    · cases h; assumption
    · cases h

theorem run_abandon {s : State} {r : FrameRecord} {slot : Nat} (h : (s.feed f).openRecord = some r)
    (hs : r.slot = some slot) : Run b s (abandon f r s) := by
  unfold abandon
  refine (Run.withdraw _).trans (Run.modFeed ?_)
  rw [withdraw_feed]
  exact .abandon h hs

theorem run_completeBand {s : State} (running : (s.feed f).parse.state ≠ .idle) : Run b s (completeBand f s) := by
  unfold completeBand
  dsimp only
  split
  · exact .refl s
  · rename_i r hr
    split
    · exact .refl s
    · rename_i slot hs
      split
      · split
        · exact .refl s
        · exact run_handRow f (.hold _ _ running hr hs)
      · split
        · exact run_abandon f hr hs
        · exact run_handRow f (.fill _ _ running hr hs (chooseBuffer_free ‹_›))

theorem run_completeBands (k : Nat) {s : State} (running : (s.feed f).parse.state ≠ .idle) :
    Run b s (completeBands f k s) := by
  induction k generalizing s with
  | zero => exact .refl s
  | succ k ih =>
    rw [completeBands]
    split
    · exact (run_completeBand f running).trans (ih (by rwa [(framed_completeBand f s).parse]))
    · exact .refl s

theorem run_reduceLine (line : Nat) {s : State} (running : (s.feed f).parse.state ≠ .idle) :
    Run b s (reduceLine f line s) := by
  unfold reduceLine
  dsimp only
  split
  · exact (run_completeBands f _ running).trans (.quiet (Feed.quiet_reducer _ _))
  · exact run_completeBands f _ running

theorem run_closeBands (height : Nat) {s : State} (running : (s.feed f).parse.state ≠ .idle) :
    Run b s (closeBands f height s) :=
  (Run.quiet (Feed.quiet_reducer _ _)).trans (run_completeBands f _ (by rwa [State.feed_modFeed_self]))

theorem run_finishHead {s : State} {r : FrameRecord} {rest : List FrameRecord}
    (h : FeedMove b (s.feed f) (finishedFeed r rest (s.feed f))) : Run b s (finishHead f r rest s) :=
  (Run.modFeed h).trans (run_stageIndex _ _)

theorem run_settle (k : Nat) (s : State) : Run b s (settle f k s) := by
  induction k generalizing s with
  | zero => exact .refl s
  | succ k ih =>
    rw [settle]
    split
    · exact .refl s
    · rename_i r rest hl
      split
      · rename_i ready
        have closed : r.state = .closed := by
          simp only [FrameRecord.ready, Bool.and_eq_true, decide_eq_true_eq] at ready
          exact ready.1
        split
        · exact (run_finishHead f (.finish hl closed ‹_›)).trans (ih _)
        · unfold sealHead
          refine (Run.make rfl (by simp [headerDraft])).trans (Run.modFeed ?_)
          rw [makeEntry_feed]
          exact .sealing hl closed ‹_›
      · exact .refl s

theorem run_settleFeed (s : State) : Run b s (settleFeed f s) := run_settle f _ s

theorem run_stopParser (s : State) : Run b s (stopParser f s) :=
  (Run.quiet (Feed.quiet_idleFeed _)).trans
    (.outside (outside_tapQ _ (Nat.le_trans (List.length_filter_le _ _) (Nat.le_max_left _ _))))

/-- The fields a close fixes move no state, slot or serial. -/
theorem closingRecord_quiet (cause : CloseCause) (peaks : Vector Nat 8) (r : FrameRecord) :
    (closingRecord cause peaks r).state = r.state ∧ (closingRecord cause peaks r).slot = r.slot
      ∧ (closingRecord cause peaks r).serial = r.serial := by
  unfold closingRecord FrameRecord.flagIf
  dsimp only
  split <;> cases cause <;> exact ⟨rfl, rfl, rfl⟩

theorem run_closeTracked (cause : CloseCause) {s : State} (running : (s.feed f).parse.state ≠ .idle)
    (tracked : (s.feed f).frame.openFrame = .tracked) : Run b s (closeTracked f cause s) := by
  obtain ⟨marked, banded, hm, hb, h⟩ := closeTracked_eq f cause s
  have marks : Run b s marked := hm ▸ .feed (.quiet (Feed.quiet_onOpen _ (closingRecord_quiet _ _)))
  have running' : (marked.feed f).parse.state ≠ .idle := by rw [hm, State.feed_setFeed_self]; exact running
  have tracked' : (marked.feed f).frame.openFrame = .tracked := by rw [hm, State.feed_setFeed_self]; exact tracked
  have bands : Run b marked banded ∧ (banded.feed f).frame.openFrame = .tracked := by
    obtain rfl | ⟨height, rfl⟩ := hb
    · exact ⟨.refl _, tracked'⟩
    · exact ⟨run_closeBands f height running', by rw [closeBands_openFrame, tracked']⟩
  rw [h]
  exact ((marks.trans bands.1).trans (.modFeed (.close bands.2))).trans (run_settleFeed f _)

theorem run_closeFrame (cause : CloseCause) {s : State} (running : (s.feed f).parse.state ≠ .idle) :
    Run b s (closeFrame f cause s) := by
  unfold closeFrame
  dsimp only
  split
  · exact .refl s
  · have closed := run_closeTracked (b := b) f cause running ‹_›
    split
    · exact closed.trans (run_stopParser f _)
    · exact closed
  · have closed : Run b s (s.modFeed f forgetFrame) := .modFeed (.forget ‹_›)
    split
    · exact closed.trans (run_stopParser f _)
    · exact closed

theorem run_handOpen (stamp : Time) (addr : Addr) (h : EssenceHeader) {s : State}
    (running : (s.feed f).parse.state ≠ .idle) : Run b s (handOpen f stamp addr h s) := by
  unfold handOpen
  dsimp only
  split
  · exact run_closeFrame f .noClose running
  · exact (run_closeFrame f .noClose running).trans (.modFeed (.opening stamp addr h (closeFrame_openFrame f .noClose s)))

theorem run_completeLine (line : Nat) (r : FrameRecord) {s : State} (running : (s.feed f).parse.state ≠ .idle) :
    Run b s (completeLine f line r s) := by
  have received : Run b s (s.modFeed f (Feed.onOpen (receiveLine line))) :=
    .quiet (Feed.quiet_onOpen _ fun _ => ⟨rfl, rfl, rfl⟩)
  unfold completeLine
  dsimp only
  repeat' split
  · exact received.trans (run_reduceLine f line (by rw [State.feed_modFeed_self]; exact running))
  · exact received
  · exact .refl s

/-! ### Faults and presence -/

theorem run_discardAll (s : State) : Run b s (discardAll f s) :=
  (Run.withdraw _).trans (.modFeed (.discard _))

/-- What a fault makes of its feed is a discard, the parser's stop and a lifecycle move. -/
theorem move_faultedFeed (cause : FaultCause) (publishing : Bool) (x : Feed) :
    FeedMove b x (faultedFeed cause publishing x) := by
  have idled : FeedMove b x (idleReducer (idleFeed (discardFeed publishing x))) :=
    .trans (.discard publishing) (.trans (.quiet (Feed.quiet_idleFeed _)) (.quiet (Feed.quiet_reducer _ _)))
  have parse_idle : (idleReducer (idleFeed (discardFeed publishing x))).parse.state = .idle := by simp [idleReducer]
  have life_eq : (idleReducer (idleFeed (discardFeed publishing x))).life = x.life := by simp [idleReducer, discardFeed]
  have faulted : faultedFeed cause publishing x = { idleReducer (idleFeed (discardFeed publishing x)) with
      life := faultLife cause x.frame.records.length x.life } := rfl
  rw [faulted, ← life_eq]
  generalize idleReducer (idleFeed (discardFeed publishing x)) = y at idled parse_idle
  refine idled.trans ?_
  by_cases running : y.life.state = .active ∨ y.life.state = .suspended
  · refine .trans (.lifecycle (v := .faulted) ?_ nofun nofun fun _ => parse_idle) (.quiet (Feed.quiet_life _ ?_ rfl))
    · rintro h; simp [h] at running
    · obtain h | h := running <;> simp [faultLife, h, setFeedState]
  · refine .quiet (Feed.quiet_life _ ?_ rfl)
    simp only [faultLife]
    split <;> simp_all

theorem run_feedFault (cause : FaultCause) (s : State) : Run b s (feedFault f cause s) := by
  rw [feedFault_eq]
  refine Run.trans ?_ (run_stageEvent _ _)
  have withdrawn : Run b s (withdraw (fun e => decide (e.source = .feed f)) s) := .withdraw _
  have faulted : Run b (withdraw (fun e => decide (e.source = .feed f)) s)
      ((withdraw (fun e => decide (e.source = .feed f)) s).setFeed f
        (faultedFeed cause (hasPublishEntry f s.insQ) (s.feed f))) :=
    .feed (by rw [withdraw_feed]; exact move_faultedFeed cause _ _)
  refine withdrawn.trans (faulted.trans (.outside (outside_tapQ _ ?_)))
  · exact Nat.le_trans (List.length_filter_le _ _) (Nat.le_max_left _ _)

theorem run_arrival (stamp : Time) (s : State) : Run b s (arrival f stamp s) := by
  have arrived : Run b s (s.modFeed f fun x =>
      { x with life := { x.life with lastArrival := stamp, presence := .present } }) := .quiet (Feed.quiet_life _ rfl rfl)
  unfold arrival
  dsimp only
  split
  · exact arrived.trans (run_stageEvent _ _)
  · exact arrived

/-- Turning a payload to SKIP stops no parser. -/
theorem skipPayload_state (x : Feed) : (skipPayload x).parse.state = x.parse.state := by
  unfold skipPayload
  dsimp only
  split <;> simp

theorem run_expireLoss {s : State} (running : (s.feed f).parse.state ≠ .idle) : Run b s (expireLoss f s) := by
  have absent : Run b s (s.modFeed f fun y => { y with life := { y.life with presence := .absent } }) :=
    .quiet (Feed.quiet_life _ rfl rfl)
  unfold expireLoss lossClose
  dsimp only
  refine Run.trans (absent.trans ?_) (run_stageEvent _ _)
  split
  · exact .refl _
  · refine (Run.modFeed (move_skipPayload _)).trans (run_closeFrame f .lost ?_)
    rw [State.feed_modFeed_self, skipPayload_state, State.feed_modFeed_self]
    exact running

/-! ### The parser -/

theorem move_handPayload {test : FrameRecord → Disposition × FrameRecord}
    (h : ∀ r, (test r).2.state = r.state ∧ (test r).2.slot = r.slot ∧ (test r).2.serial = r.serial) (x : Feed) :
    FeedMove b x (handPayload test x).1 := by
  unfold handPayload
  split
  · show FeedMove b x (countStray x)
    exact .quiet (Feed.quiet_count _ x)
  · exact .quiet (.refl x)
  · split
    · exact .quiet (.refl x)
    · exact .quiet (Feed.quiet_onOpen x h)

theorem linesTest_quiet (h : EssenceHeader) (r : FrameRecord) : (linesTest h r).2.state = r.state
    ∧ (linesTest h r).2.slot = r.slot ∧ (linesTest h r).2.serial = r.serial := by
  unfold linesTest
  repeat' split
  all_goals first
    | exact r.flag_quiet _
    | exact r.flagIf_quiet _ _

theorem audioTest_quiet (h : EssenceHeader) (r : FrameRecord) : (audioTest h r).2.state = r.state
    ∧ (audioTest h r).2.slot = r.slot ∧ (audioTest h r).2.serial = r.serial := by
  unfold audioTest
  split
  · exact ⟨rfl, rfl, rfl⟩
  · exact r.flag_quiet _

theorem countLength_parse (n : Nat) (x : Feed) : (countLength n x).parse = x.parse := by
  unfold countLength
  split <;> rfl

theorem run_handOff (stamp : Time) (addr : Addr) (h : EssenceHeader) {s : State}
    (running : (s.feed f).parse.state ≠ .idle) : Run b s (handOff f stamp addr h s).1 := by
  have counted : ∀ n, FeedMove b (s.feed f) (countLength n (s.feed f)) := fun n => .quiet (Feed.quiet_countLength n _)
  unfold handOff handClose
  split
  · exact run_handOpen f stamp addr h running
  · exact .feed ((counted 32).trans (move_handPayload (linesTest_quiet h) _))
  · exact .feed ((counted 32).trans (move_handPayload (audioTest_quiet h) _))
  · split
    · exact .quiet (Feed.quiet_count _ _)
    · refine (Run.modFeed (counted _)).trans (run_closeFrame f .close ?_)
      rw [State.feed_modFeed_self, countLength_parse]
      exact running
  · exact .modFeed (counted 32)

theorem run_takeHeader (stamp : Time) (addr : Addr) (h : EssenceHeader) {s : State}
    (running : (s.feed f).parse.state ≠ .idle) : Run b s (takeHeader f stamp addr h s) := by
  have moved : ∀ c : ParseContext, c.state = (s.feed f).parse.state →
      Run b s (s.modFeed f (Feed.onParse fun _ => c)) := fun c hc => .quiet (Feed.quiet_onParse (.inr running))
  unfold takeHeader
  dsimp only
  have taken : Run b s (handOff f stamp addr h (s.modFeed f fun x => x.onParse fun c =>
      { c with cursor := ringNext x.params addr 32, expectedSeq := h.sequence + 1, budget := 0 })).1 := by
    refine Run.trans (Run.quiet (Feed.quiet_onParse (.inr running))) (run_handOff f stamp addr h ?_)
    rw [State.feed_modFeed_self]
    exact running
  split
  · rename_i still
    exact taken.trans (.quiet (Feed.quiet_onParse (.inr (by simpa [Feed.running] using still))))
  · exact taken

theorem run_pictureWord {s : State} (word : Nat) (running : (s.feed f).parse.state ≠ .idle) :
    Run b s (pictureWord f s word) ∧ ((pictureWord f s word).feed f).parse.state = (s.feed f).parse.state := by
  have turned : ∀ (d : Disposition) (y : Feed), (y = s.feed f ∨ ∃ r, y = { s.feed f with reducer := r }) →
      FeedMove b (s.feed f) (y.onParse (setDisposition d))
        ∧ (y.onParse (setDisposition d)).parse.state = (s.feed f).parse.state := by
    rintro d y (rfl | ⟨r, rfl⟩)
    · exact ⟨.quiet (Feed.quiet_onParse (.inr running)), rfl⟩
    · exact ⟨.trans (.quiet (Feed.quiet_reducer _ r)) (.quiet (Feed.quiet_onParse (.inr running))), rfl⟩
  have added : ∀ (p : Prop) (_ : Decidable p) (r : Reducer),
      (if p then { s.feed f with reducer := r } else s.feed f) = s.feed f
        ∨ ∃ r', (if p then { s.feed f with reducer := r } else s.feed f) = { s.feed f with reducer := r' } := by
    intro p _ r
    split
    · exact .inr ⟨r, rfl⟩
    · exact .inl rfl
  have completed : ∀ (line : Nat) (r : FrameRecord) (u : State),
      ((completeLine f line r u).feed f).parse.state = (u.feed f).parse.state := by
    intro line r u
    unfold completeLine
    dsimp only
    repeat' split
    · rw [(framed_reduceLine f line _).parse, State.feed_modFeed_self]; rfl
    · rw [State.feed_modFeed_self]; rfl
    · rfl
  unfold pictureWord
  dsimp only
  split
  · split
    · exact ⟨.refl s, rfl⟩
    · split
      · obtain ⟨move, state⟩ := turned _ _ (added _ _ _)
        refine ⟨(Run.feed move).trans (run_completeLine f _ _ ?_), ?_⟩
        · rw [State.feed_setFeed_self, state]; exact running
        · rw [completed, State.feed_setFeed_self, state]
      · obtain ⟨move, state⟩ := turned _ _ (added _ _ _)
        exact ⟨.feed move, by rw [State.feed_setFeed_self, state]⟩
  · exact ⟨.refl s, rfl⟩

theorem run_pictureWords (words : List Nat) {s : State} (running : (s.feed f).parse.state ≠ .idle) :
    Run b s (words.foldl (pictureWord f) s)
      ∧ ((words.foldl (pictureWord f) s).feed f).parse.state = (s.feed f).parse.state := by
  induction words generalizing s with
  | nil => exact ⟨.refl s, rfl⟩
  | cons w words ih =>
    obtain ⟨run, state⟩ := run_pictureWord (b := b) f w running
    obtain ⟨run', state'⟩ := ih (s := pictureWord f s w) (by rwa [state])
    exact ⟨run.trans run', state'.trans state⟩

/-- A sample metered is quiet. -/
theorem quiet_audioWord (x : Feed) (word : Nat) (running : x.parse.state ≠ .idle) :
    x.Quiet (audioWord x word) ∧ (audioWord x word).parse.state = x.parse.state := by
  unfold audioWord
  repeat' split
  · exact ⟨⟨rfl, rfl, rfl, rfl, records_quiet_refl _, rfl, rfl, rfl, rfl, rfl, .inr running, .refl _⟩, rfl⟩
  · exact ⟨.refl x, rfl⟩
  · exact ⟨.refl x, rfl⟩

theorem move_audioWords (words : List Nat) (x : Feed) (running : x.parse.state ≠ .idle) :
    FeedMove b x (words.foldl audioWord x) ∧ (words.foldl audioWord x).parse.state = x.parse.state := by
  induction words generalizing x with
  | nil => exact ⟨.quiet (.refl x), rfl⟩
  | cons w words ih =>
    obtain ⟨quiet, state⟩ := quiet_audioWord x w running
    obtain ⟨move, state'⟩ := ih (audioWord x w) (by rwa [state])
    exact ⟨.trans (.quiet quiet) move, state'.trans state⟩

theorem run_readPayload (bytes : List Byte) {s : State} (running : (s.feed f).parse.state ≠ .idle) :
    Run b s (readPayload f bytes s) ∧ ((readPayload f bytes s).feed f).parse.state = (s.feed f).parse.state := by
  unfold readPayload
  split
  · exact run_pictureWords f _ running
  · obtain ⟨move, state⟩ := move_audioWords (b := b) (words32 bytes) (s.feed f) running
    exact ⟨.modFeed move, by rw [State.feed_modFeed_self, state]⟩
  · exact ⟨.refl s, rfl⟩

theorem run_parsePosition (stamp : Time) (addr : Addr) (bytes : List Byte) (s : State) :
    Run b s (parsePosition f stamp addr bytes s) := by
  have lengthened : ∀ {k : ParseContext → ParseContext}, (s.feed f).parse.state ≠ .idle →
      FeedMove b (s.feed f) (countLength 32 ((s.feed f).onParse k)) := fun running =>
    .trans (.quiet (Feed.quiet_onParse (.inr running))) (.quiet (Feed.quiet_countLength 32 _))
  unfold parsePosition
  split
  · exact .refl s
  · rename_i state
    have running : (s.feed f).parse.state ≠ .idle := by rw [state]; nofun
    unfold huntPosition
    dsimp only
    repeat' split
    · exact run_takeHeader f stamp addr _ running
    · exact (Run.modFeed (lengthened running)).trans (run_feedFault f .noLock _)
    · exact .modFeed (lengthened running)
  · rename_i state
    have running : (s.feed f).parse.state ≠ .idle := by rw [state]; nofun
    unfold headerPosition
    split
    · refine (Run.modFeed (move_noteGap _ _)).trans (run_takeHeader f stamp addr _ ?_)
      rw [State.feed_modFeed_self]
      unfold noteGap
      dsimp only
      repeat' split
      all_goals exact running
    · exact .modFeed (.trans (.quiet (Feed.quiet_onParse (.inr running)))
        (.trans (.quiet (Feed.quiet_count _ _)) (.quiet (Feed.quiet_countLength 32 _))))
  · rename_i state
    have running : (s.feed f).parse.state ≠ .idle := by rw [state]; nofun
    obtain ⟨run, still⟩ := run_readPayload (b := b) f bytes running
    exact run.trans (.modFeed (.trans (.quiet (Feed.quiet_onParse (.inr (by rwa [still]))))
      (.quiet (Feed.quiet_countLength 32 _))))

theorem run_parsePositions (stamp : Time) (addr : Addr) (l : List (List Byte)) (s : State) :
    Run b s (parsePositions f stamp addr l s) := by
  induction l generalizing addr s with
  | nil => exact .refl s
  | cons bytes l ih => exact (run_parsePosition f stamp addr bytes s).trans (ih _ _)

end

/-- A break is found in a context that runs. -/
theorem running_of_isBreak {e : TapEntry} {c : ParseContext} (h : isBreak e c = true) : c.state ≠ .idle := by
  intro idle
  simp [isBreak, idle] at h

theorem move_breakFeed {b : Bool} {x : Feed} (running : x.parse.state ≠ .idle) : FeedMove b x (breakFeed x) := by
  have flagged : FeedMove b (discardLine x) (flagOpen .break (discardLine x)) := by
    unfold flagOpen
    split
    · exact .quiet (Feed.quiet_onOpen _ (FrameRecord.flag_quiet _))
    · exact .quiet (.refl _)
  have state : (flagOpen .break (discardLine x)).parse.state = x.parse.state := by
    unfold flagOpen; split <;> simp [Feed.onOpen]
  exact .trans (.quiet x.quiet_discardLine) (flagged.trans
    (.trans (.quiet (Feed.quiet_onParse (.inr (by rwa [state])))) (.quiet (Feed.quiet_count _ _))))

/-- Serving the tap queue is a run of moves. -/
theorem run_serveTap {b : Bool} (s : State) : Run b s (serveTap s) := by
  unfold serveTap
  split
  · exact .refl s
  · rename_i e rest hq
    refine Run.trans (.outside (outside_tapQ s (q := rest) ?_)) ?_
    · rw [hq, List.length_cons]; omega
    · unfold parseEntry
      dsimp only
      split
      · rename_i broken
        exact (Run.modFeed (move_breakFeed (running_of_isBreak broken))).trans (run_parsePositions _ _ _ _ _)
      · exact run_parsePositions _ _ _ _ _

end Sys2Proof.Machine
end

section
/-! Every step is a run of moves: acceptance, the answers, the commands and the resets, in the order of the model's files. -/

namespace Sys2Proof.Machine

/-! ### Acceptance -/

section
variable {b : Bool}

theorem quiet_missTap (x : Feed) : x.Quiet (missTap x) :=
  ⟨rfl, rfl, rfl, rfl, records_quiet_refl _, rfl, rfl, rfl, rfl, rfl, Decidable.em _, RowStore.Quiet.refl _⟩

theorem run_tapWrite (f : FeedId) (addr : Addr) (lanes : List Lane) (s : State) :
    Run b s (tapWrite f addr lanes s) := by
  unfold tapWrite
  split
  · rename_i room
    simp only [Bool.and_eq_true, decide_eq_true_eq] at room
    refine Run.trans (.trans (.outside (outside_tapQ s (q := s.tapQ ++ [_]) ?_)) (.quiet ?_)) (run_arrival f _ _)
    · simp only [List.length_append, List.length_cons, List.length_nil, Config.tapCapacity] at room ⊢
      omega
    · exact ⟨rfl, rfl, rfl, rfl, records_quiet_refl _, rfl, rfl, rfl, rfl, rfl, Decidable.em _, RowStore.Quiet.refl _⟩
  · exact (Run.quiet (quiet_missTap _)).trans (run_arrival f _ _)

theorem run_brokenWrite (addr length : Nat) (s : State) (f : FeedId) : Run b s (brokenWrite addr length s f) := by
  unfold brokenWrite
  split
  · exact (Run.quiet (quiet_missTap _)).trans (run_arrival f _ _)
  · exact .refl s

/-- A fold of runs is a run. -/
theorem run_foldl {α : Type} (step : State → α → State) (h : ∀ s a, Run b s (step s a)) (l : List α) (s : State) :
    Run b s (l.foldl step s) := by
  induction l generalizing s with
  | nil => exact .refl s
  | cons a l ih => exact (h s a).trans (ih _)

theorem move_releaseValue (v : Count) (x : Feed) : FeedMove b x (releaseValue v x) := by
  unfold releaseValue
  repeat' split
  · exact .quiet (.refl x)
  · exact .release ‹_›
  · exact .quiet (Feed.quiet_count _ x)

theorem run_noticeConsumer (v : Count) (s : State) : Run b s (noticeConsumer v s) := by
  unfold noticeConsumer
  split
  · exact (Run.noticeConsumed ‹_›).trans .makeNotice
  · exact .refl s

theorem run_catalogueConsumer (v : Count) (s : State) : Run b s (catalogueConsumer v s) := by
  unfold catalogueConsumer
  split
  · rename_i taken
    exact (Run.indexConsumed (Bool.and_eq_true _ _ ▸ taken).2).trans .startBatch
  · exact .refl s

theorem run_withValue (v : Option Count) {g : Count → State → State} (h : ∀ c s, Run b s (g c s)) (s : State) :
    Run b s (withValue v g s) := by
  unfold withValue
  split
  · exact h _ s
  · exact .refl s

theorem run_snoop (addr : Addr) (lanes : List Lane) (s : State) : Run b s (snoop addr lanes s) :=
  ((run_withValue _ run_noticeConsumer s).trans (run_withValue _ run_catalogueConsumer _)).trans
    (run_foldl _ (fun _ _ => run_withValue _ (fun v _ => .modFeed (move_releaseValue v _)) _) _ _)

/-- A capture is made where the command queue has room for it. -/
theorem run_controlWrite (r : FabricRequest) (lanes : List Lane) {s : State}
    (room : (captureOf s r).isNone ∨ s.commands.queue.length < 8) : Run b s (controlWrite r lanes s) := by
  unfold controlWrite
  refine Run.trans ?_ (run_snoop r.addr lanes _)
  dsimp only
  split
  · rename_i c captured
    refine .outside (outside_commands s ?_)
    have : s.commands.queue.length < 8 := room.resolve_left (by simp [captured])
    simp only [List.length_append, List.length_cons, List.length_nil, Config.commandCapacity]
    omega
  · exact .refl s

theorem quiet_intrude (addr : Addr) (x : Feed) : x.Quiet (intrude addr x) :=
  x.quiet_records fun r => by split <;> exact ⟨rfl, rfl, rfl⟩

/-- What acceptance does once the request has joined the forward queue. -/
theorem run_writeActions (r : FabricRequest) (lanes : List Lane) {s : State}
    (room : (captureOf s r).isNone ∨ s.commands.queue.length < 8) : Run b s (writeActions r lanes s) := by
  unfold writeActions
  repeat' split
  · exact run_controlWrite r lanes room
  · exact run_tapWrite _ _ _ s
  · exact .refl s
  · exact .quiet (quiet_intrude _ _)
  · exact .refl s
  · exact .refl s
  · exact run_foldl _ (fun s f => run_brokenWrite _ _ s f) _ s

@[simp] theorem captureOf_forwardQ (s : State) (q : List FabricRequest) (r : FabricRequest) :
    captureOf { s with forwardQ := q } r = captureOf s r := rfl

/-- An acceptance changes nothing, or the request joins the forward queue, which has room, and moves follow. -/
theorem run_accept {r : FabricRequest} {s t : State} (h : exec (.fabricRequestAccept r) s = .next t) :
    t = s ∨ s.forwardQ.length < 32 ∧ Run b { s with forwardQ := s.forwardQ ++ [r] } t := by
  obtain rfl : (if accepts s r then acceptRequest r s else s) = t := Host.Outcome.next.inj h
  split
  · rename_i ok
    obtain ⟨room, capture⟩ := (accepts_iff s r).mp ok
    refine .inr ⟨room, ?_⟩
    unfold acceptRequest
    split
    · exact .refl _
    · exact run_writeActions r _ (by rw [captureOf_forwardQ]; simpa using capture)
  · exact .inl rfl

/-! ### The insertion queue -/

theorem run_markPart (f : FeedId) (ref : RowRef) (v : PartState) (s : State) :
    Run b s (s.modFeed f fun x => { x with rows := x.rows.markPart ref v }) :=
  .quiet (Feed.quiet_rows _ (RowStore.quiet_markPart ref v _))

theorem run_tellSource (part : PartState) (word : WordState) (e : InsEntry) (s : State) :
    Run b s (tellSource part word e s) := by
  unfold tellSource
  repeat' split
  · exact run_markPart _ _ _ s
  · exact .refl s
  · exact run_setWord _ _ s
  · exact run_setWord _ _ s
  · exact run_setWord _ _ s
  · exact .refl s

/-- The insertion candidate is a QUEUED entry of the queue. -/
theorem insertionCandidate_mem {s : State} {e : InsEntry} (h : insertionCandidate s = some e) :
    e ∈ s.insQ ∧ e.state = .queued := by
  obtain ⟨k, -, found⟩ := List.exists_of_findSome?_eq_some h
  have picked := List.find?_some found
  simp only [InsEntry.queued, Bool.and_eq_true, decide_eq_true_eq] at picked
  exact ⟨List.mem_of_find?_eq_some found, picked.1⟩

theorem run_issueEntry {e : InsEntry} {t : Tag} {s : State} (h : e ∈ s.insQ) (hq : e.state = .queued)
    (free : s.tags[t] = .free) : Run b s (issueEntry e t s) := by
  have issued : Run b s { s with
      insQ := changeEntry e.age (fun x => { x with state := .issued t }) s.insQ, tags := s.tags.set t .insertion } :=
    .issue h hq free
  refine Run.trans (issued.trans (.outside ?_)) (run_tellSource _ _ e _)
  exact ⟨rfl, rfl, rfl, rfl, rfl, rfl, rfl, rfl, rfl, rfl, Nat.le_max_left _ _, Nat.le_max_left _ _, Nat.zero_le _⟩

/-- Making an entry reads no feed. -/
theorem makeEntry_setFeed (d : EntryDraft) (s : State) (f : FeedId) (x : Feed) :
    makeEntry d (s.setFeed f x) = (makeEntry d s).setFeed f x := by
  show (if s.normal && quotaRoom s.insQ d.source d.kind then _ else _) = _
  unfold makeEntry
  split <;> rfl

/-- The states of a header's answer: the publish word is brought up to date on the queue, and P moves in the feed. -/
theorem updatePublish_eq (f : FeedId) (s : State) :
    ∃ u : State, Run b s u ∧ u.feed f = s.feed f ∧
      updateWord (.publish f) (s.modFeed f fun x =>
        { x with publisher := { x.publisher with published := x.publisher.published + 1 } })
        = u.setFeed f (publishedFeed (s.feed f).publisher.word.moved (s.feed f)) := by
  unfold updateWord
  cases word : (s.feed f).publisher.word with
  | none =>
    refine ⟨makeEntry (wordDraft (.publish f) (s.modFeed f fun x =>
      { x with publisher := { x.publisher with published := x.publisher.published + 1 } })) s, .make rfl nofun, ?_, ?_⟩
    · rw [makeEntry_feed]
    · simp only [WordId.state, State.feed_modFeed_self, word, queueWord, setWord]
      rw [State.modFeed, State.modFeed, makeEntry_feed, State.feed_setFeed_self, makeEntry_setFeed,
        State.setFeed_setFeed]
      rfl
  | queued =>
    refine ⟨_, .replace (.publish f) ((s.feed f).publisher.published + 1), rfl, ?_⟩
    simp only [WordId.state, State.feed_modFeed_self, word, replaceWord, WordId.value]
    simp [State.modFeed, State.setFeed, publishedFeed, WordState.moved, word]
  | issued =>
    refine ⟨s, .refl s, rfl, ?_⟩
    simp only [WordId.state, State.feed_modFeed_self, word, setWord]
    simp [State.modFeed, publishedFeed, WordState.moved]
  | issuedMoved =>
    refine ⟨s, .refl s, rfl, ?_⟩
    simp only [WordId.state, State.feed_modFeed_self, word]
    simp [State.modFeed, publishedFeed, WordState.moved, word]

/-- A header answered: nothing, or P moves and the head is DONE, and the records behind it may follow. -/
theorem run_headerAnswered (f : FeedId) (s : State) : Run true s (headerAnswered f s) := by
  unfold headerAnswered
  split
  · exact .refl s
  · rename_i r rest records
    split
    · rename_i sealing
      obtain ⟨u, run, same, moved⟩ := updatePublish_eq (b := true) f s
      dsimp only
      rw [moved]
      refine Run.trans (run.trans ?_) (run_settleFeed f _)
      unfold finishHead
      refine Run.trans ?_ (run_stageIndex _ _)
      rw [State.setFeed_modFeed]
      exact .feed (.header _ rfl (by rw [same, records]) sealing |> (same ▸ ·))
    · exact .refl s

theorem run_rowAnswered (f : FeedId) (ref : RowRef) (s : State) : Run b s (rowAnswered f ref s) := by
  unfold rowAnswered
  dsimp only
  refine Run.trans (.modFeed ?_) (run_settleFeed f _)
  have swept : FeedMove b (s.feed f)
      { s.feed f with rows := ((s.feed f).rows.markPart ref .answered).sweep } :=
    .quiet (Feed.quiet_rows _ (RowStore.quiet_answer ref _))
  split
  · exact swept.trans (.quiet (Feed.quiet_records _ fun r => by split <;> exact ⟨rfl, rfl, rfl⟩))
  · exact swept

theorem run_batchAnswered (s : State) : Run b s (batchAnswered s) := by
  unfold batchAnswered
  split
  · exact .refl s
  · exact ((Run.batchDone ‹_›).trans (run_updateWord _ _)).trans .startBatch

/-- A source's answer but for a header's and a notice's. -/
theorem run_answerOk {e : InsEntry} (s : State) (header : e.kind ≠ .header) (notice : e.kind ≠ .notice) :
    Run b s (answerOk e s) := by
  unfold answerOk
  repeat' split
  · exact run_rowAnswered _ _ s
  · exact .refl s
  · exact absurd ‹_› header
  · exact run_wordAnswered _ _ s
  · exact run_batchAnswered s
  · exact run_wordAnswered _ _ s
  · exact absurd ‹_› notice
  · exact run_wordAnswered _ _ s
  · unfold reportAnswered
    split
    · exact .outside (outside_commands s (Nat.le_max_left _ _))
    · exact .refl s
    · exact .refl s
  · exact .refl s

theorem run_forgetFailed (e : InsEntry) (s : State) : Run b s (forgetFailed e s) := by
  unfold forgetFailed
  repeat' split
  · exact .quiet (Feed.quiet_rows _ ⟨_, fun i => by split <;> rfl, .inl rfl⟩)
  · exact .refl s
  · exact run_setWord _ _ s
  · exact run_setWord _ _ s
  · exact run_setWord _ _ s
  · exact .catalogue rfl rfl rfl rfl rfl (.inr rfl)
  · exact .refl s

/-- What the engine's failure makes of a feed is quiet. -/
theorem move_failFeed (x : Feed) : FeedMove b x (failFeed x) := by
  have idled : FeedMove b x (idleReducer (idleFeed x)) :=
    .trans (.quiet x.quiet_idleFeed) (.quiet (Feed.quiet_reducer _ _))
  refine idled.trans (.quiet ?_)
  exact ⟨rfl, rfl, rfl, rfl, records_quiet_refl _, rfl, rfl, rfl, rfl, rfl, Decidable.em _,
    RowStore.quiet_change _ _ fun _ => rfl⟩

/-- Orphaning no ISSUED entry moves no tag. -/
theorem foldl_orphanTag_queued {l : List InsEntry} (h : ∀ e ∈ l, e.state = .queued) (tags : Vector TagState 128) :
    l.foldl orphanTag tags = tags := by
  induction l generalizing tags with
  | nil => rfl
  | cons e l ih =>
    have : orphanTag tags e = tags := by rw [orphanTag, h e (List.mem_cons_self ..)]
    rw [List.foldl_cons, this]
    exact ih (fun x hx => h x (List.mem_cons_of_mem _ hx)) tags

/-- Withdrawing the QUEUED entries moves no tag. -/
theorem withdraw_queued (s : State) : withdraw InsEntry.queued s = { s with insQ := s.insQ.filter fun e => !e.queued } := by
  have : (s.insQ.filter InsEntry.queued).foldl orphanTag s.tags = s.tags :=
    foldl_orphanTag_queued (fun e he => by simpa [InsEntry.queued] using (List.mem_filter.mp he).2) _
  rw [withdraw, this]

theorem run_enterFailed (s : State) : Run b s (enterFailed s) := by
  let s1 : State := withdraw InsEntry.queued s
  let s2 : State := { s1 with feeds := s1.feeds.map failFeed }
  let issuedBatch : Bool := (s.insQ.filter fun e => !e.queued).any fun e => decide (e.kind = .batch)
  let s3 : State := { s2 with catalogue := failCatalogue issuedBatch s.catalogue }
  let s4 : State := { s3 with
    notices := { s.notices with word := if s.notices.word = .queued then .none else s.notices.word } }
  have r1 : Run b s s1 := .withdraw _
  have r2 : Run b s1 s2 := .allFeeds move_failFeed
  have r3 : Run b s2 s3 := .catalogue rfl rfl rfl rfl rfl (by dsimp only [failCatalogue]; split <;> simp [s2, s1])
  have r4 : Run b s3 s4 := .notices rfl rfl (Nat.le_max_left _ _)
  have e : enterFailed s = { s4 with
      engine := .controlPathFailed, credit := 0, tapQ := [], commands := failCommands s.commands } := by
    simp only [s4, s3, s2, s1, issuedBatch, withdraw_queued, enterFailed]
  rw [e]
  refine r1.trans (r2.trans (r3.trans (r4.trans (.outside ?_))))
  have shorter : (failCommands s.commands).queue.length ≤ s.commands.queue.length := by
    unfold failCommands
    split
    · exact Nat.le_refl _
    · simp
    · simp
  exact ⟨rfl, rfl, rfl, rfl, rfl, rfl, rfl, rfl, rfl, rfl, Nat.zero_le _, Nat.le_trans shorter (Nat.le_max_left _ _),
    Nat.zero_le _⟩

theorem run_answerFailed (e : InsEntry) (s : State) : Run b s (answerFailed e s) := by
  unfold answerFailed
  repeat' split
  · exact .quiet (Feed.quiet_rows _ (RowStore.quiet_answer _ _))
  · exact .refl s
  · exact run_setWord _ _ s
  · exact run_setWord _ _ s
  · exact run_setWord _ _ s
  · exact .catalogue rfl rfl rfl rfl rfl (.inr rfl)
  · exact .refl s

theorem run_routeFailure (e : InsEntry) (s : State) : Run b s (routeFailure e s) := by
  unfold routeFailure
  split
  · exact run_feedFault _ _ s
  · exact run_enterFailed s
  · exact run_enterFailed s
  · exact run_enterFailed s

/-- An answer to an entry, but for one without error to a header. -/
theorem run_answerEntry {e : InsEntry} {t : Tag} {s : State} (status : AnswerStatus) (ht : s.tags[t] = .insertion)
    (he : entryOn s.insQ t = some e) (header : e.kind = .header → s.engine = .normal → status = .error) :
    Run b s (answerEntry e status (s.setTag t .free)) := by
  have dropped : Run b s (dropEntry e (s.setTag t .free)) := .drop ht he
  unfold answerEntry
  split
  · rename_i normal
    have normal' : s.engine = .normal := of_decide_eq_true normal
    split
    · have other : e.kind ≠ .header := fun k => nomatch header k normal'
      by_cases notice : e.kind = .notice
      · have told : answerOk e (dropEntry e (s.setTag t .free)) = noticeAnswered (dropEntry e (s.setTag t .free)) := by
          unfold answerOk; split <;> simp_all
        rw [told, noticeAnswered]
        exact ((Run.noticeDone ht he notice).trans (run_updateWord _ _)).trans .makeNotice
      · exact dropped.trans (run_answerOk _ other notice)
    · split
      · exact (Run.retry _ ht he).trans (run_tellSource _ _ e _)
      · exact dropped.trans ((run_forgetFailed e _).trans (run_routeFailure e _))
  · exact dropped.trans (run_answerFailed e _)

/-- An answer to an entry, a header's among them. -/
theorem run_insertionAnswer {t : Tag} {status : AnswerStatus} {s u : State}
    (h : exec (.insertionAnswer t status) s = .next u) :
    Run true s u ∧ (Run b s u ∨ status = .ok ∧ s.engine = .normal ∧ ∃ (e : InsEntry) (f : FeedId), e ∈ s.insQ
      ∧ e.state = .issued t ∧ e.kind = .header ∧ e.source = .feed f ∧ u = headerAnswered f (s.freed e t)) := by
  simp only [exec, execInsertionAnswer, Host.Outcome.next.injEq] at h
  subst h
  split
  · rename_i ht
    split
    · rename_i e he
      have onTag : e.state = .issued t := by simpa using List.find?_some he
      by_cases header : e.kind = .header ∧ s.engine = .normal ∧ status = .ok
      · obtain ⟨kind, normal, rfl⟩ := header
        have dropped : ∀ b, Run b s (dropEntry e (s.setTag t .free)) := fun b => .drop ht he
        have told : answerEntry e .ok (s.setTag t .free) = answerOk e (s.freed e t) := by
          simp [answerEntry, State.normal, normal, dropEntry_setTag]
        rw [told]
        cases source : e.source with
        | feed f =>
          have : answerOk e (s.freed e t) = headerAnswered f (s.freed e t) := by simp only [answerOk, kind, source]
          rw [this]
          exact ⟨(dropped true).trans (run_headerAnswered f _),
            .inr ⟨rfl, normal, e, f, List.mem_of_find?_eq_some he, onTag, kind, source, rfl⟩⟩
        | catalogue => simp only [answerOk, kind, source]; exact ⟨dropped true, .inl (dropped b)⟩
        | notice => simp only [answerOk, kind, source]; exact ⟨dropped true, .inl (dropped b)⟩
        | report => simp only [answerOk, kind, source]; exact ⟨dropped true, .inl (dropped b)⟩
      · have notOk : e.kind = .header → s.engine = .normal → status = .error := by
          intro k n
          cases status
          · exact absurd ⟨k, n, rfl⟩ header
          · rfl
        exact ⟨run_answerEntry status ht he notOk, .inl (run_answerEntry status ht he notOk)⟩
    · exact ⟨.untag (.inr ‹_›), .inl (.untag (.inr ‹_›))⟩
  · exact ⟨.refl s, .inl (.refl s)⟩
  · exact ⟨.refl s, .inl (.refl s)⟩
  · exact ⟨.refl s, .inl (.refl s)⟩

theorem quiet_furtherCause (status : AnswerStatus) (x : Feed) : x.Quiet (furtherCause status x) := by
  cases status
  · exact .refl x
  · exact Feed.quiet_life x rfl rfl

theorem run_orphanAnswered (i : EntryIdent) (status : AnswerStatus) (s : State) :
    Run b s (orphanAnswered i status s) := by
  unfold orphanAnswered
  split
  · refine .modFeed ?_
    unfold orphanedRow
    split
    · exact .trans (.quiet (Feed.quiet_rows _ (RowStore.quiet_answer _ _))) (.quiet (quiet_furtherCause status _))
    · exact .quiet (.refl _)
  · exact .refl s

theorem run_queueRowPart (f : FeedId) (s : State) : Run b s (queueRowPart f s) := by
  unfold queueRowPart
  repeat' split
  · exact .refl s
  · exact (Run.make rfl (by simp [rowDraft])).trans (run_markPart _ _ _ _)
  · exact .refl s

/-! ### Commands -/

theorem run_popHead (s : State) : Run b s (popHead s) :=
  .outside (outside_commands s (by simp only [List.length_tail]; omega))

theorem run_complete (c : Command) (r : CommandResult) (d : Nat) {s : State} (room : s.notices.staging.length < 8) :
    Run b s (complete c r d s) := (run_stageNotice _ room).trans (run_popHead _)

/-- A command whose effect leaves the notices alone, then completed. -/
theorem Run.complete {s t : State} (run : Run b s t) (c : Command) (r : CommandResult) (d : Nat)
    (notices : t.notices = s.notices) (room : s.notices.staging.length < 8) : Run b s (complete c r d t) :=
  run.trans (run_complete c r d (notices ▸ room))

/-- A command executed is one the head phase, the engine and the notices' room allow. -/
theorem run_runHead {names : Command → Bool} {body : Command → State → State} {s : State}
    (h : ∀ c, s.notices.staging.length < 8 → Run b s (body c s)) : Run b s (runHead names body s) := by
  unfold runHead
  split
  · rename_i c head
    split
    · refine h c ?_
      unfold executableHead at head
      split at head
      · rename_i ok
        simp only [Bool.and_eq_true, State.noticeRoom, decide_eq_true_eq] at ok
        exact ok.2
      · cases head
    · exact .refl s
  · exact .refl s

theorem run_onFeed {body : FeedId → Command → State → State} {s : State} (c : Command)
    (room : s.notices.staging.length < 8) (h : ∀ f, Run b s (body f c s)) : Run b s (onFeed body c s) := by
  unfold onFeed
  split
  · exact run_complete c _ _ room
  · exact h _

theorem run_doSetCatalogue (c : Command) {s : State} (room : s.notices.staging.length < 8) :
    Run b s (doSetCatalogue c s) := by
  unfold doSetCatalogue
  dsimp only
  split
  · exact (Run.ring ‹_›).complete c _ _ rfl room
  · exact run_complete c _ _ room

theorem run_doDefine (f : FeedId) (c : Command) {s : State} (room : s.notices.staging.length < 8) :
    Run true s (doDefine f c s) := by
  unfold doDefine
  dsimp only
  split
  · exact (Run.define rfl ‹_›).complete c _ _ rfl room
  · exact run_complete c _ _ room

/-- A DEFINED or FAULTED feed starts running. -/
theorem move_runFeed {x : Feed} (h : x.life.state = .defined ∨ x.life.state = .faulted) : FeedMove b x (runFeed x) := by
  have active : FeedMove b x (setFeedState .active x) :=
    .lifecycle (by rintro v; simp [v] at h) nofun nofun nofun
  have hunting : FeedMove b (setFeedState .active x) { setFeedState .active x with parse := enterHunt x.parse } :=
    .wake _ nofun nofun nofun
  refine active.trans (hunting.trans (.quiet ?_))
  exact ⟨rfl, rfl, rfl, rfl, records_quiet_refl _, rfl, rfl, rfl, rfl, rfl, .inr nofun, RowStore.Quiet.refl _⟩

theorem run_doStart (f : FeedId) (c : Command) {s : State} (room : s.notices.staging.length < 8) :
    Run b s (doStart f c s) := by
  unfold doStart
  split
  · exact (Run.modFeed (move_runFeed (.inl ‹_›))).complete c _ _ rfl room
  all_goals exact run_complete c _ _ room

theorem run_doSuspend (f : FeedId) (c : Command) {s : State} (room : s.notices.staging.length < 8) :
    Run b s (doSuspend f c s) := by
  unfold doSuspend
  split
  · rename_i active
    have moved : FeedMove b (s.feed f) (setFeedState .suspended (s.feed f)) :=
      .lifecycle (by rw [active]; nofun) nofun nofun nofun
    exact (Run.modFeed moved).complete c _ _ rfl room
  all_goals exact run_complete c _ _ room

theorem run_doResume (f : FeedId) (c : Command) {s : State} (room : s.notices.staging.length < 8) :
    Run b s (doResume f c s) := by
  unfold doResume
  split
  · rename_i suspended
    have moved : FeedMove b (s.feed f) (setFeedState .active (s.feed f)) :=
      .lifecycle (by rw [suspended]; nofun) nofun nofun nofun
    exact (Run.modFeed moved).complete c _ _ rfl room
  all_goals exact run_complete c _ _ room

theorem move_startDrain (serial : BitVec 16) (n : Nat) {x : Feed} (h : x.life.state ≠ .vacant) :
    FeedMove b x (startDrain serial n x) :=
  .trans (.lifecycle (v := .draining) h nofun nofun nofun) (.quiet (Feed.quiet_life _ rfl rfl))

theorem run_retireAtFrameEnd (f : FeedId) (s : State) : Run b s (retireAtFrameEnd f s) := by
  unfold retireAtFrameEnd
  split
  · exact run_stopParser f s
  · exact .quiet ⟨rfl, rfl, rfl, rfl, records_quiet_refl _, rfl, rfl, rfl, rfl, rfl, Decidable.em _, RowStore.Quiet.refl _⟩

theorem run_retireNow (f : FeedId) (s : State) : Run b s (retireNow f s) :=
  ((run_stopParser f s).trans (.quiet (Feed.quiet_reducer _ _))).trans (run_discardAll f _)

theorem run_doRetire (f : FeedId) (c : Command) {s : State} (room : s.notices.staging.length < 8) :
    Run b s (doRetire f c s) := by
  have drains : ∀ n, (s.feed f).life.state ≠ .vacant → Run b s (s.modFeed f (startDrain c.serial n)) :=
    fun n h => .modFeed (move_startDrain _ n h)
  have running : ∀ mode, (s.feed f).life.state ≠ .vacant → Run b s (match mode with
      | RetireMode.atFrameEnd => popHead (retireAtFrameEnd f (s.modFeed f (startDrain c.serial 0)))
      | .now => popHead (retireNow f (s.modFeed f (startDrain c.serial (s.feed f).frame.records.length)))) := by
    intro mode h
    cases mode
    · exact ((drains _ h).trans (run_retireAtFrameEnd f _)).trans (run_popHead _)
    · exact ((drains _ h).trans (run_retireNow f _)).trans (run_popHead _)
  unfold doRetire
  split
  · exact run_complete c _ _ room
  · rename_i mode _
    unfold retire
    split <;> rename_i state
    · exact run_complete c _ _ room
    · exact (Run.modFeed (.vacate (.inl state))).complete c _ _ rfl room
    · exact (drains _ (by rw [state]; nofun)).trans (run_popHead _)
    · exact run_complete c _ _ room
    · exact running mode (by rw [state]; nofun)
    · exact running mode (by rw [state]; nofun)

theorem run_doRestart (f : FeedId) (c : Command) {s : State} (room : s.notices.staging.length < 8) :
    Run b s (doRestart f c s) := by
  unfold doRestart
  split
  · rename_i state
    split
    · exact run_complete c _ _ room
    · have cleared : FeedMove b (s.feed f) { s.feed f with
          life := { (s.feed f).life with fault := none }, publisher := { (s.feed f).publisher with stale := false } } :=
        .quiet ⟨rfl, rfl, rfl, rfl, records_quiet_refl _, rfl, rfl, rfl, rfl, rfl, Decidable.em _, RowStore.Quiet.refl _⟩
      have runs : Run b s (s.modFeed f fun x => runFeed { x with
          life := { x.life with fault := none }, publisher := { x.publisher with stale := false } }) :=
        .modFeed (cleared.trans (move_runFeed (.inr state)))
      dsimp only
      split
      · refine (runs.trans (run_queueWord _ _)).complete c _ _ ?_ room
        simp [queueWord, setWord]
      · exact runs.complete c _ _ rfl room
  all_goals exact run_complete c _ _ room

theorem run_doReport (f : FeedId) (c : Command) (s : State) : Run b s (doReport f c s) :=
  (Run.make (d := statusDraft f s) rfl (by simp [statusDraft])).trans (.outside (outside_commands _ (Nat.le_max_left _ _)))

theorem run_stageReport (s : State) : Run b s (stageReport s) := by
  unfold stageReport
  split
  · split
    · rename_i ok
      refine run_complete _ _ _ ?_
      exact of_decide_eq_true (Bool.and_eq_true _ _ ▸ ok).2
    · exact .refl s
  · exact .refl s

theorem run_clearBlocks (s : State) : Run true s (clearBlocks s) := by
  let s1 : State := withdraw (fun _ => true) s
  let s2 : State := { s1 with feeds := s1.feeds.map clearFeed }
  let s3 : State := { s2 with catalogue := Catalogue.reset }
  let s4 : State := { s3 with notices := NoticeWriter.reset }
  let s5 : State := { s4 with nextAge := 0 }
  have r1 : Run true s s1 := .withdraw _
  have r2 : Run true s1 s2 := .allFeeds fun x => .clear rfl
  have r3 : Run true s2 s3 := .noRing
  have r4 : Run true s3 s4 := .noNotices
  have r5 : Run true s4 s5 := .firstAge 0 (by simp [s4, s3, s2, s1, withdraw])
  refine r1.trans (r2.trans (r3.trans (r4.trans (r5.trans (.outside ?_)))))
  exact ⟨rfl, rfl, rfl, rfl, rfl, rfl, rfl, rfl, rfl, rfl, Nat.zero_le _, Nat.zero_le _, Nat.zero_le _⟩

theorem run_resetEngine (c : Command) (s : State) : Run true s (resetEngine c s) :=
  (run_clearBlocks s).trans (run_stageNotice _ (by simp [clearBlocks, NoticeWriter.reset]))

theorem run_commandDiscard {t : State} (s : State) : exec .commandDiscard s = .next t → Run b s t := by
  intro h
  simp only [exec, execCommandDiscard, Host.Outcome.next.injEq] at h
  subst h
  repeat' split
  · exact .refl s
  · exact run_popHead s
  · exact .refl s

theorem run_exitDrain {f : FeedId} {s : State} (h : drained f s = true) : Run b s (exitDrain f s) := by
  simp only [drained, Bool.and_eq_true, Feed.running, Bool.not_eq_true', decide_eq_false_iff_not, not_not,
    List.isEmpty_iff, State.noticeRoom, decide_eq_true_eq] at h
  obtain ⟨⟨⟨⟨⟨⟨⟨-, idle⟩, -⟩, items⟩, -⟩, -⟩, room⟩, -⟩ := h
  have vacates : Run b s (s.modFeed f vacate) := .modFeed (.vacate (.inr ⟨items, idle⟩))
  unfold exitDrain
  split
  · exact vacates
  · exact vacates.trans (run_stageNotice _ room)

end

/-! ### The steps -/

/-- The steps that move the forward queue, the time base or the straps. -/
def outerStep : Instr → Bool
  | .powerOnReset _ | .fabricRequestAccept _ | .forwardIssue | .timeBaseTick => true
  | _ => false

/-- The steps that can move a count P. -/
def publishingStep : Instr → Bool
  | .defineFeed | .resetEngine | .insertionAnswer _ _ => true
  | _ => false

/-- Every step but an acceptance, a forward issue, a tick and power-on reset is a run of moves, and moves no P unless it is
an answer, DEFINE FEED or RESET ENGINE. -/
theorem run_exec {c : Instr} {s t : State} (h : exec c s = .next t) (inner : outerStep c = false) :
    Run (publishingStep c) s t := by
  cases c with
  | powerOnReset v => cases inner
  | fabricRequestAccept r => cases inner
  | forwardIssue => cases inner
  | timeBaseTick => cases inner
  | insertionIssue =>
    simp only [exec, execInsertionIssue, Host.Outcome.next.injEq] at h
    subst h
    split
    · rename_i e t candidate free
      split
      · obtain ⟨mem, queued⟩ := insertionCandidate_mem candidate
        exact run_issueEntry mem queued (lowestFree_free free)
      · exact .refl s
    · exact .refl s
  | forwardAnswer u a =>
    simp only [exec, execForwardAnswer, Host.Outcome.next.injEq] at h
    subst h
    split
    · rename_i master d tag
      have freed : Run false s (s.setTag u .free) := .untag (.inl (by rw [tag]; nofun))
      refine freed.trans (.outside ?_)
      exact ⟨rfl, rfl, rfl, rfl, rfl, rfl, rfl, rfl, rfl, rfl, Nat.le_max_left _ _, Nat.le_max_left _ _, Nat.le_refl _⟩
    all_goals exact .refl s
  | insertionAnswer u status => exact (run_insertionAnswer (b := true) h).1
  | orphanedAnswer u status =>
    simp only [exec, execOrphanedAnswer, Host.Outcome.next.injEq] at h
    subst h
    split
    · rename_i i tag
      exact (Run.untag (.inl (by rw [tag]; nofun))).trans (run_orphanAnswered i status _)
    all_goals exact .refl s
  | parseTapEntry => cases h; exact run_serveTap s
  | lossTimeoutExpiry f =>
    simp only [exec, execLossTimeoutExpiry, Host.Outcome.next.injEq] at h
    subst h
    split
    · rename_i expired
      simp only [lossExpired, Bool.and_eq_true, Feed.running, decide_eq_true_eq] at expired
      obtain ⟨⟨⟨-, running⟩, -⟩, -⟩ := expired
      exact run_expireLoss f running
    · exact .refl s
  | flushTimeoutExpiry =>
    rw [exec_flushTimeoutExpiry] at h
    cases h
    split
    · exact .startBatch
    · exact .refl s
  | batchStart => cases h; exact .startBatch
  | noticeEntryMake => cases h; exact .makeNotice
  | rowPartQueue f => cases h; exact run_queueRowPart f s
  | setCatalogue => cases h; exact run_runHead fun c room => run_doSetCatalogue c room
  | defineFeed => cases h; exact run_runHead fun c room => run_onFeed c room fun f => run_doDefine f c room
  | startFeed => cases h; exact run_runHead fun c room => run_onFeed c room fun f => run_doStart f c room
  | suspendFeed => cases h; exact run_runHead fun c room => run_onFeed c room fun f => run_doSuspend f c room
  | resumeFeed => cases h; exact run_runHead fun c room => run_onFeed c room fun f => run_doResume f c room
  | retireFeedAtFrameEnd => cases h; exact run_runHead fun c room => run_onFeed c room fun f => run_doRetire f c room
  | retireFeedNow => cases h; exact run_runHead fun c room => run_onFeed c room fun f => run_doRetire f c room
  | restartFeed => cases h; exact run_runHead fun c room => run_onFeed c room fun f => run_doRestart f c room
  | reportFeed => cases h; exact run_runHead fun c room => run_onFeed c room fun f => run_doReport f c s
  | resetEngine =>
    simp only [exec, execResetEngine, Host.Outcome.next.injEq] at h
    subst h
    split
    · split
      · exact run_resetEngine _ s
      · exact .refl s
    · exact .refl s
  | unknownCommand => cases h; exact run_runHead fun c room => run_complete c _ _ room
  | commandDiscard => exact run_commandDiscard s h
  | reportNoticeStage => cases h; exact run_stageReport s
  | drainExit f =>
    simp only [exec, execDrainExit, Host.Outcome.next.injEq] at h
    subst h
    split
    · exact run_exitDrain ‹_›
    · exact .refl s

end Sys2Proof.Machine
end

section
/-! What every run keeps of the feeds: an invariant kept by each move of a feed holds after every run. With it the count P,
the capacities and the row buffers' form. -/

namespace Sys2Proof.Machine

/-! ### The induction over a run -/

/-- What every move of a feed and every definition keeps of each feed holds after a run. -/
theorem Run.feeds {b : Bool} {I : FeedId → Feed → Prop} {s t : State}
    (move : ∀ f x y, FeedMove b x y → I f x → I f y)
    (define : b = true → ∀ f p x, x.life.state = .vacant → FeedParams.inRange p = true → I f x → I f (definedFeed p x))
    (run : Run b s t) (h : ∀ f, I f (s.feed f)) : ∀ f, I f (t.feed f) := by
  induction run with
  | trans _ _ ih ih' => exact ih' (ih h)
  | outside out => exact fun f => State.feed_congr out.feeds f ▸ h f
  | @feed s f y moved =>
    intro g
    rw [State.feed_setFeed]
    split
    · rename_i same; subst same; exact move g _ y moved (h g)
    · exact h g
  | allFeeds moved => exact fun f => by rw [State.feed_map]; exact move f _ _ (moved _) (h f)
  | @define s f p free result =>
    have vacant : (s.feed f).life.state = .vacant := by
      by_contra c; simp [defineResult, c] at result
    have inRange : p.inRange = true := by
      unfold defineResult at result
      repeat' split at result
      all_goals simp_all
    intro g
    rw [State.feed_modFeed]
    split
    · rename_i same; subst same; exact define free g p _ vacant inRange (h g)
    · exact h g
  | make _ _ => exact fun f => by rw [makeEntry_feed]; exact h f
  | startBatch => exact fun f => by rw [startBatch_feed]; exact h f
  | makeNotice => exact fun f => by rw [makeNoticeEntry_feed]; exact h f
  | _ => exact h

/-- A run moves neither the waiting commands nor the straps, the time base or the forward queue. -/
theorem Run.through {b : Bool} {s t : State} (run : Run b s t) : t.pending = s.pending ∧ t.straps = s.straps
    ∧ t.timeBase = s.timeBase ∧ t.forwardQ = s.forwardQ := by
  induction run with
  | trans _ _ ih ih' =>
    exact ⟨ih'.1.trans ih.1, ih'.2.1.trans ih.2.1, ih'.2.2.1.trans ih.2.2.1, ih'.2.2.2.trans ih.2.2.2⟩
  | outside out => exact ⟨out.pending, out.straps, out.timeBase, out.forwardQ⟩
  | make _ _ => simp
  | startBatch => simp
  | makeNotice => simp
  | _ => exact ⟨rfl, rfl, rfl, rfl⟩

/-! ### The count P -/

/-- P is kept by every move of a feed but a header's answer and a reset. -/
theorem FeedMove.published {x y : Feed} (h : FeedMove false x y) : y.publisher.published = x.publisher.published := by
  induction h with
  | trans _ _ ih ih' => exact ih'.trans ih
  | quiet q => exact q.published
  | opening stamp addr h _ => exact (openFrame_kept stamp addr h _).published
  | header _ free _ _ => cases free
  | clear free => cases free
  | _ => rfl

/-- A run that moves no P. -/
theorem Run.published {s t : State} (run : Run false s t) (f : FeedId) :
    (t.feed f).publisher.published = (s.feed f).publisher.published :=
  Run.feeds (I := fun g x => x.publisher.published = (s.feed g).publisher.published)
    (fun _ _ _ moved h => moved.published.trans h) nofun run (fun _ => rfl) f

/-- A header's answer moves no P but its feed's, and that by one. -/
theorem headerAnswered_published (f g : FeedId) (s : State) :
    ((headerAnswered f s).feed g).publisher.published = (s.feed g).publisher.published
      ∨ g = f ∧ ((headerAnswered f s).feed g).publisher.published = (s.feed g).publisher.published + 1 := by
  by_cases same : g = f
  · subst same
    unfold headerAnswered
    split
    · exact .inl rfl
    · split
      · refine .inr ⟨rfl, ?_⟩
        dsimp only
        rw [(kept_settleFeed g _).published, finishHead_feed]
        show (State.feed (updateWord _ _) g).publisher.published = _
        rw [(kept_updatePublish g _).published, State.feed_modFeed_self]
      · exact .inl rfl
  · exact .inl (by rw [(local_headerAnswered f s).others g same])

/-- A command runs nothing, or its body on the head. -/
theorem runHead_cases (names : Command → Bool) (body : Command → State → State) (s : State) :
    runHead names body s = s ∨ ∃ c, s.notices.staging.length < 8 ∧ runHead names body s = body c s := by
  unfold runHead
  split
  · rename_i c head
    unfold executableHead at head
    split at head
    · rename_i ok
      simp only [Bool.and_eq_true, State.noticeRoom, decide_eq_true_eq] at ok
      split
      · exact .inr ⟨c, ok.2, rfl⟩
      · exact .inl rfl
    · cases head
  · exact .inl rfl

/-- DEFINE FEED leaves the count P of a feed, or sets it to 0. -/
theorem defineFeed_published {s t : State} (h : exec .defineFeed s = .next t) (g : FeedId) :
    (t.feed g).publisher.published = (s.feed g).publisher.published ∨ (t.feed g).publisher.published = 0 := by
  have e : runHead (hasOpcode .defineFeed) (onFeed doDefine) s = t := Host.Outcome.next.inj h
  rw [← e]
  obtain h | ⟨c, -, h⟩ := runHead_cases (hasOpcode .defineFeed) (onFeed doDefine) s <;> rw [h]
  · exact .inl rfl
  · unfold onFeed doDefine
    split
    · exact .inl (by rw [complete_feed])
    · rename_i f _
      rw [complete_feed]
      split
      · rw [State.feed_modFeed]
        split
        · exact .inr rfl
        · exact .inl rfl
      · exact .inl rfl

@[simp] theorem clearBlocks_feed (s : State) (f : FeedId) : (clearBlocks s).feed f = clearFeed (s.feed f) := by
  simp [clearBlocks, State.feed]

/-- Power-on reset clears each feed. -/
theorem powerOnReset_feed {v : BitVec 8} {s t : State} (h : exec (.powerOnReset v) s = .next t) (f : FeedId) :
    t.feed f = clearFeed (s.feed f) := by
  cases h
  simp [State.feed]

/-- RESET ENGINE leaves the count P of a feed, or sets it to 0. -/
theorem resetEngine_published {s t : State} (h : exec .resetEngine s = .next t) (g : FeedId) :
    (t.feed g).publisher.published = (s.feed g).publisher.published ∨ (t.feed g).publisher.published = 0 := by
  simp only [exec, execResetEngine, Host.Outcome.next.injEq] at h
  subst h
  repeat' split
  · refine .inr ?_
    rw [resetEngine, stageNotice_feed]
    rw [clearBlocks_feed]
    rfl
  · exact .inl rfl
  · exact .inl rfl

/-- Settles O28: of the runs of moves only three kinds of step hold one that moves P, and each is read on its own. -/
theorem publishedMoves : Obligations.PublishedMoves := by
  unfold Obligations.PublishedMoves
  intro c s t f h
  by_cases inner : outerStep c = false
  · cases publishing : publishingStep c with
    | false => exact .inl ((publishing ▸ run_exec h inner).published f)
    | true =>
      cases c with
      | insertionAnswer u status =>
        obtain run | ⟨rfl, normal, e, g, mem, onTag, kind, source, rfl⟩ := (run_insertionAnswer (b := false) h).2
        · exact .inl (run.published f)
        · obtain kept | ⟨rfl, moved⟩ := headerAnswered_published g f (s.freed e u)
          · exact .inl kept
          · exact .inr (.inl ⟨moved, normal, u, e, rfl, mem, onTag, kind, source⟩)
      | defineFeed => exact (defineFeed_published h f).imp_right fun zero => .inr ⟨zero, .inl rfl⟩
      | resetEngine => exact (resetEngine_published h f).imp_right fun zero => .inr ⟨zero, .inr (.inl rfl)⟩
      | _ => cases publishing
  · cases c with
    | powerOnReset v =>
      refine .inr (.inr ⟨?_, .inr (.inr ⟨v, rfl⟩)⟩)
      rw [powerOnReset_feed h]
      rfl
    | fabricRequestAccept r =>
      obtain rfl | ⟨-, run⟩ := run_accept (b := false) h
      · exact .inl rfl
      · exact .inl (run.published f)
    | forwardIssue =>
      simp only [exec, execForwardIssue, Host.Outcome.next.injEq] at h
      subst h
      left
      repeat' split
      all_goals rfl
    | timeBaseTick => cases h; exact .inl rfl
    | _ => exact absurd rfl inner

/-! ### Answers and frames of the whole part -/

/-- Settles O2: each step's outcome is a next state, and a run of moves keeps the commands that wait. -/
theorem execAnswersNext : Obligations.ExecAnswersNext := by
  unfold Obligations.ExecAnswersNext
  intro c s
  have answers : ∃ t, exec c s = .next t := by cases c <;> exact ⟨_, rfl⟩
  obtain ⟨t, h⟩ := answers
  refine ⟨t, h, ?_⟩
  by_cases inner : outerStep c = false
  · exact (run_exec h inner).through.1
  · cases c with
    | powerOnReset v => cases h; rfl
    | fabricRequestAccept r =>
      obtain rfl | ⟨-, run⟩ := run_accept (b := false) h
      · rfl
      · exact run.through.1
    | forwardIssue =>
      simp only [exec, execForwardIssue, Host.Outcome.next.injEq] at h
      subst h
      repeat' split
      all_goals rfl
    | timeBaseTick => cases h; rfl
    | _ => exact absurd rfl inner

/-- Settles O5: a run of moves keeps the straps, the time base and the forward queue, and the other steps are read. -/
theorem outsideKept : Obligations.OutsideKept := by
  unfold Obligations.OutsideKept
  refine ⟨fun s => rfl, fun c s t h notReset => ?_⟩
  by_cases inner : outerStep c = false
  · obtain ⟨-, straps, timeBase, forwardQ⟩ := (run_exec h inner).through
    exact ⟨straps, fun _ => timeBase, fun _ _ => forwardQ⟩
  · cases c with
    | powerOnReset v => exact absurd rfl (notReset v)
    | fabricRequestAccept r =>
      have kept : t.straps = s.straps ∧ t.timeBase = s.timeBase := by
        obtain rfl | ⟨-, run⟩ := run_accept (b := false) h
        · exact ⟨rfl, rfl⟩
        · exact ⟨run.through.2.1, run.through.2.2.1⟩
      exact ⟨kept.1, fun _ => kept.2, fun _ other => absurd rfl (other r)⟩
    | forwardIssue =>
      have kept : t.straps = s.straps ∧ t.timeBase = s.timeBase := by
        simp only [exec, execForwardIssue, Host.Outcome.next.injEq] at h
        subst h
        repeat' split
        all_goals exact ⟨rfl, rfl⟩
      exact ⟨kept.1, fun _ => kept.2, fun other => absurd rfl other⟩
    | timeBaseTick => cases h; exact ⟨rfl, fun other => absurd rfl other, fun _ _ => rfl⟩
    | _ => exact absurd rfl inner

end Sys2Proof.Machine
end

section
/-! The capacities, the row buffers' canonical form, the use counts and the IDLE parsers (chapters 2.1, 4.1, 5.3, 6.1, 7.3,
8.4, 9.4), kept by every move. -/

namespace Sys2Proof.Machine

/-! ### Queues -/

/-- The queues a run can fill, and the credit count, within their bounds. -/
def State.bounded (s : State) : Prop :=
  s.tapQ.length ≤ Config.tapCapacity ∧ s.commands.queue.length ≤ Config.commandCapacity
    ∧ s.notices.staging.length ≤ Config.noticeCapacity ∧ s.catalogue.staging.length ≤ Config.stagingCapacity
    ∧ s.credit ≤ Config.creditLimit

theorem startBatch_staging (s : State) : (startBatch s).catalogue.staging = s.catalogue.staging := by
  obtain h | ⟨d, -, -, h⟩ := startBatch_cases s <;> rw [h]

/-- Every run keeps the queues within their bounds. -/
theorem Run.bounded {b : Bool} {s t : State} (run : Run b s t) (h : s.bounded) : t.bounded := by
  unfold State.bounded at h ⊢
  induction run with
  | trans _ _ ih ih' => exact ih' (ih h)
  | outside out =>
    obtain ⟨tap, commands, notices, staging, credit⟩ := h
    exact ⟨Nat.le_trans out.tapQ (Nat.max_le.mpr ⟨tap, Nat.le_refl _⟩),
      Nat.le_trans out.commands (Nat.max_le.mpr ⟨commands, Nat.le_refl _⟩), out.notices ▸ notices,
      out.catalogue ▸ staging, Nat.le_trans out.credit credit⟩
  | make _ _ => simpa using h
  | catalogue _ _ staging _ _ _ =>
    obtain ⟨tap, commands, notices, staged, credit⟩ := h
    exact ⟨tap, commands, notices, staging ▸ staged, credit⟩
  | index r room =>
    obtain ⟨tap, commands, notices, staged, credit⟩ := h
    refine ⟨tap, commands, notices, ?_, credit⟩
    simp only [List.length_append, List.length_cons, List.length_nil, Config.stagingCapacity] at room ⊢
    omega
  | startBatch => rw [startBatch_staging]; simpa using h
  | batchDone _ =>
    obtain ⟨tap, commands, notices, staged, credit⟩ := h
    exact ⟨tap, commands, notices, Nat.le_trans (by simp) staged, credit⟩
  | noRing =>
    obtain ⟨tap, commands, notices, -, credit⟩ := h
    exact ⟨tap, commands, notices, Nat.zero_le _, credit⟩
  | notices _ _ room =>
    obtain ⟨tap, commands, notices, staged, credit⟩ := h
    exact ⟨tap, commands, Nat.le_trans room (Nat.max_le.mpr ⟨notices, Nat.le_refl _⟩), staged, credit⟩
  | makeNotice => simpa using h
  | noNotices =>
    obtain ⟨tap, commands, -, staged, credit⟩ := h
    exact ⟨tap, commands, Nat.zero_le _, staged, credit⟩
  | noticeDone _ _ _ =>
    obtain ⟨tap, commands, notices, staged, credit⟩ := h
    exact ⟨tap, commands, Nat.le_trans (by simp) notices, staged, credit⟩
  | _ => exact h

/-! ### Record lists and row buffers -/

/-- A feed's records within their number and its row buffers in the canonical form. -/
def Feed.bounded (x : Feed) : Prop := x.frame.records.length ≤ Config.recordCapacity ∧ x.rows.wf

/-- A quiet change of a row store moves no byte. -/
theorem RowStore.Quiet.wf {r r' : RowStore} (h : r.Quiet r') (wf : r.wf) : r'.wf := by
  obtain ⟨g, -, rfl | rfl⟩ := h <;> exact wf

/-- The records and the rows an OPEN leaves (R29 to R31). -/
theorem openFrame_records (stamp : Time) (addr : Addr) (h : EssenceHeader) (x : Feed) :
    (openFrame stamp addr h x).rows = x.rows ∧ ((openFrame stamp addr h x).frame.records = x.frame.records
      ∨ x.frame.records.length < 4 ∧ ∃ r, (openFrame stamp addr h x).frame.records = x.frame.records ++ [r]) := by
  unfold openFrame openTracked openUntracked openSerial Feed.count
  dsimp only
  split
  · exact ⟨rfl, .inr ⟨‹_›, _, rfl⟩⟩
  · exact ⟨rfl, .inl rfl⟩

/-- Every move of a feed keeps its bounds. -/
theorem FeedMove.bounded {b : Bool} {x y : Feed} (move : FeedMove b x y) (h : x.bounded) : y.bounded := by
  unfold Feed.bounded at h ⊢
  induction move with
  | trans _ _ ih ih' => exact ih' (ih h)
  | quiet q =>
    obtain ⟨g, records, -⟩ := q.records
    exact ⟨by rw [records, List.length_map]; exact h.1, q.rows.wf h.2⟩
  | hold ident b _ _ _ =>
    refine ⟨?_, holdBuffer_wf b h.2⟩
    simpa [handedFeed, Feed.onOpen, holdBuffer] using h.1
  | fill ident row _ _ _ _ =>
    refine ⟨?_, fillBuffer_wf _ row h.2⟩
    simpa [handedFeed, Feed.onOpen, fillBuffer] using h.1
  | abandon _ _ => exact ⟨by simpa [abandonedFeed, Feed.onOpen] using h.1, h.2⟩
  | close _ => exact ⟨by simpa [closedFeed, Feed.onOpen] using h.1, h.2⟩
  | opening stamp addr header _ =>
    obtain ⟨rows, same | ⟨room, r, more⟩⟩ := openFrame_records stamp addr header _
    · rwa [rows, same]
    · rw [rows, more, List.length_append, List.length_singleton]
      exact ⟨room, h.2⟩
  | finish records _ _ =>
    rw [records, List.length_cons] at h
    exact ⟨Nat.le_of_succ_le h.1, h.2⟩
  | sealing records _ _ =>
    rw [records, List.length_cons] at h
    exact ⟨by rw [sealedFeed, List.length_cons]; exact h.1, h.2⟩
  | header _ _ records _ =>
    rw [records, List.length_cons] at h
    exact ⟨Nat.le_of_succ_le h.1, h.2⟩
  | discard _ => exact ⟨Nat.zero_le _, h.2⟩
  | clear _ => exact ⟨Nat.zero_le _, h.2⟩
  | _ => exact h

theorem Run.feedsBounded {b : Bool} {s t : State} (run : Run b s t) (h : ∀ f, (s.feed f).bounded) :
    ∀ f, (t.feed f).bounded :=
  run.feeds (I := fun _ => Feed.bounded) (fun _ _ _ move => move.bounded)
    (fun _ _ _ _ _ _ bounded => ⟨Nat.zero_le _, bounded.2⟩) h

/-- The capacities and the canonical form, the forward queue's part, the other queues' and the feeds' apart. -/
theorem withinCapacity_buffersWf_iff (s : State) : s.withinCapacity ∧ s.buffersWf ↔
    s.forwardQ.length ≤ 32 ∧ s.bounded ∧ ∀ f, (s.feed f).bounded := by
  constructor
  · rintro ⟨⟨forward, tap, commands, notices, staging, credit, records⟩, wf⟩
    exact ⟨forward, ⟨tap, commands, notices, staging, credit⟩, fun f => ⟨records f, wf f⟩⟩
  · rintro ⟨forward, ⟨tap, commands, notices, staging, credit⟩, feeds⟩
    exact ⟨⟨forward, tap, commands, notices, staging, credit, fun f => (feeds f).1⟩, fun f => (feeds f).2⟩

/-- A run keeps the capacities and the canonical form. -/
theorem Run.withinCapacity {b : Bool} {s t : State} (run : Run b s t) (h : s.withinCapacity ∧ s.buffersWf) :
    t.withinCapacity ∧ t.buffersWf := by
  rw [withinCapacity_buffersWf_iff] at h ⊢
  obtain ⟨forward, bounded, feeds⟩ := h
  exact ⟨run.through.2.2.2 ▸ forward, run.bounded bounded, run.feedsBounded feeds⟩

/-! ### The steps that are no run -/

/-- A forward issue changes nothing, or takes the head of the forward queue onto a FREE tag. -/
theorem forwardIssue_cases {s t : State} (h : exec .forwardIssue s = .next t) :
    t = s ∨ ∃ r u, lowestFree s.tags = some u ∧ grantsForward s = true ∧ t = issueForward r u s := by
  simp only [exec, execForwardIssue, Host.Outcome.next.injEq] at h
  subst h
  split
  · rename_i r u _ free
    split
    · exact .inr ⟨r, u, free, ‹_›, rfl⟩
    · exact .inl rfl
  · exact .inl rfl

/-- A grant to the forward head leaves the credit count within its range. -/
theorem issueForward_credit {s : State} (r : FabricRequest) (u : Tag) (grant : grantsForward s = true) :
    (issueForward r u s).credit ≤ 8 := by
  simp only [grantsForward, Bool.and_eq_true, Bool.or_eq_true, Bool.not_eq_true', decide_eq_true_eq] at grant
  unfold issueForward
  dsimp only
  split
  · rename_i queued
    exact grant.2.resolve_left (by simp [queued])
  · exact Nat.zero_le _

/-- What holds of a state and is no matter of the waiting commands holds of every state one step on, where each run of
moves and each of the four other steps keeps it. -/
theorem step_keeps {I : State → Prop} (pending : ∀ s q, I s → I (s.withPending q))
    (run : ∀ b s t, Run b s t → I s → I t)
    (reset : ∀ v s, I s → I { State.reset with pending := s.pending, straps := v, feeds := s.feeds.map clearFeed })
    (join : ∀ s r, s.forwardQ.length < 32 → I s → I { s with forwardQ := s.forwardQ ++ [r] })
    (issue : ∀ s r u, lowestFree s.tags = some u → grantsForward s = true → I s → I (issueForward r u s))
    (tick : ∀ s, I s → I { s with timeBase := s.timeBase + 1 })
    {s t : State} (h : step s = .next t) (inv : I s) : I t := by
  unfold step at h
  split at h
  · cases h; exact inv
  · rename_i c rest _
    replace inv := pending s rest inv
    generalize s.withPending rest = s at h inv
    by_cases inner : outerStep c = false
    · exact run _ s t (run_exec h inner) inv
    · cases c with
      | powerOnReset v => cases h; exact reset v s inv
      | fabricRequestAccept r =>
        obtain rfl | ⟨room, moves⟩ := run_accept (b := true) h
        · exact inv
        · exact run _ _ t moves (join s r room inv)
      | forwardIssue =>
        obtain rfl | ⟨r, u, free, grant, rfl⟩ := forwardIssue_cases h
        · exact inv
        · exact issue s r u free grant inv
      | timeBaseTick => cases h; exact tick s inv
      | _ => exact absurd rfl inner

/-- Settles O56: every move keeps the bounds, and so do an acceptance with room and a granted forward issue. -/
theorem boundsKept : Obligations.BoundsKept := by
  unfold Obligations.BoundsKept
  intro s t capacity wf h
  refine step_keeps (I := fun s => s.withinCapacity ∧ s.buffersWf) (fun s q inv => inv)
    (fun _ _ _ run inv => run.withinCapacity inv) ?reset ?join ?issue (fun s inv => inv) h ⟨capacity, wf⟩
  case reset =>
    intro v s inv
    rw [withinCapacity_buffersWf_iff] at inv ⊢
    refine ⟨Nat.zero_le _, ⟨Nat.zero_le _, Nat.zero_le _, Nat.zero_le _, Nat.zero_le _, Nat.zero_le _⟩, fun f => ?_⟩
    have cleared : ∀ u : State, u.feeds = s.feeds.map clearFeed → u.feed f = clearFeed (s.feed f) := fun u e => by
      simp [State.feed, e]
    rw [cleared _ rfl]
    exact ⟨Nat.zero_le _, (inv.2.2 f).2⟩
  case join =>
    intro s r room inv
    rw [withinCapacity_buffersWf_iff] at inv ⊢
    exact ⟨by simp only [List.length_append, List.length_singleton]; omega, inv.2⟩
  case issue =>
    intro s r u _ grant inv
    rw [withinCapacity_buffersWf_iff] at inv ⊢
    obtain ⟨forward, ⟨tap, commands, notices, staging, -⟩, feeds⟩ := inv
    exact ⟨Nat.le_trans (by simp [issueForward]) forward,
      ⟨tap, commands, notices, staging, issueForward_credit r u grant⟩, feeds⟩

/-! ### Use counts -/

/-- Of the two buffers, one that is not `a` is the other. -/
theorem BufferId.eq_other_of_ne {a b : BufferId} (ne : a ≠ b) : a = b.other := by
  cases a <;> cases b
  · exact absurd rfl ne
  · rfl
  · rfl
  · exact absurd rfl ne

theorem BufferId.other_ne (b : BufferId) : b.other ≠ b := by
  cases b <;> nofun

/-- A quiet change of a row store whose use counts are the numbers of items keeps them so. -/
theorem RowStore.Quiet.counts {r r' : RowStore} (h : r.Quiet r')
    (c : ∀ b, (r.buffer b).useCount = r.items.countP fun i => decide (i.buffer = b)) :
    ∀ b, (r'.buffer b).useCount = r'.items.countP fun i => decide (i.buffer = b) := by
  obtain ⟨g, kept, rfl | rfl⟩ := h
  · intro b
    have : (r.items.map g).countP (fun i => decide (i.buffer = b)) = r.items.countP fun i => decide (i.buffer = b) := by
      rw [List.countP_map]
      exact List.countP_congr fun i _ => by simp [kept]
    cases b <;> exact (c _).trans this.symm
  · intro b
    have mapped : (r.items.map g).countP (fun i => decide (i.buffer = b)) = r.items.countP fun i => decide (i.buffer = b) := by
      rw [List.countP_map]
      exact List.countP_congr fun i _ => by simp [kept]
    have split : ∀ l : List RowItem, l.countP (fun i => decide (i.buffer = b))
        = (l.filter RowItem.ended).countP (fun i => decide (i.buffer = b))
          + (l.filter fun i => !i.ended).countP fun i => decide (i.buffer = b) := by
      intro l
      induction l with
      | nil => rfl
      | cons i l ih =>
        cases e : i.ended <;> simp only [List.filter_cons, e, List.countP_cons, ih, Bool.not_true, Bool.not_false,
          if_true, Bool.false_eq_true, if_false] <;> omega
    have counted := split (r.items.map g)
    have uses := c b
    cases b <;> simp only [RowStore.buffer, RowStore.sweep, lowerUse] at uses ⊢ <;> omega

/-- No item left where there was none. -/
theorem RowStore.Quiet.items_nil {r r' : RowStore} (h : r.Quiet r') (none : r.items = []) : r'.items = [] := by
  obtain ⟨g, -, rfl | rfl⟩ := h <;> simp [RowStore.sweep, none]

/-- The use counts of a feed, buffer by buffer. -/
theorem Feed.rowsCounted_iff (x : Feed) : x.rowsCounted ↔
    (x.life.state = .vacant ∨ x.life.state = .defined ∨ x.life.state = .faulted → x.parse.state = .idle)
      ∧ (x.life.state = .vacant ∨ x.life.state = .defined → x.rows.items = [])
      ∧ ∀ b, (x.rows.buffer b).useCount = x.rows.items.countP fun i => decide (i.buffer = b) := by
  constructor
  · rintro ⟨idle, empty, zero, one⟩
    exact ⟨idle, empty, fun b => by cases b <;> assumption⟩
  · rintro ⟨idle, empty, counts⟩
    exact ⟨idle, empty, counts .zero, counts .one⟩

/-- A move that touches neither the lifecycle state, the parse state nor the rows keeps the use counts. -/
theorem Feed.rowsCounted_congr {x y : Feed} (state : y.life.state = x.life.state) (parse : y.parse.state = x.parse.state)
    (rows : y.rows = x.rows) (h : x.rowsCounted) : y.rowsCounted := by
  unfold Feed.rowsCounted at h ⊢
  rwa [state, parse, rows]

theorem openFrame_state (stamp : Time) (addr : Addr) (h : EssenceHeader) (x : Feed) :
    (openFrame stamp addr h x).life.state = x.life.state ∧ (openFrame stamp addr h x).parse.state = x.parse.state := by
  unfold openFrame openTracked openUntracked openSerial Feed.count
  dsimp only
  split <;> exact ⟨rfl, rfl⟩

/-- A row handed on from a buffer with one use more keeps the use counts of a feed that runs. -/
theorem rowsCounted_handed {x y : Feed} {b : BufferId} (h : x.rowsCounted) (running : x.parse.state ≠ .idle)
    (state : y.life.state = x.life.state) (item : ∃ i : RowItem, y.rows.items = x.rows.items ++ [i] ∧ i.buffer = b)
    (own : (y.rows.buffer b).useCount = (x.rows.buffer b).useCount + 1)
    (other : (y.rows.buffer b.other).useCount = (x.rows.buffer b.other).useCount) : y.rowsCounted := by
  rw [Feed.rowsCounted_iff] at h ⊢
  obtain ⟨idle, -, counts⟩ := h
  obtain ⟨i, items, buffer⟩ := item
  rw [state, items]
  refine ⟨fun c => absurd (idle c) running, fun c => absurd (idle (c.imp_right .inl)) running, fun a => ?_⟩
  rw [List.countP_append, List.countP_singleton, buffer, ← counts a]
  by_cases same : a = b
  · subst same; simpa using own
  · have : a = b.other := BufferId.eq_other_of_ne same
    subst this
    rw [other, if_neg (by simpa using b.other_ne.symm)]
    rfl

/-- Every move of a feed keeps its use counts, and its parser IDLE where it does not run. -/
theorem FeedMove.rowsCounted {b : Bool} {x y : Feed} (move : FeedMove b x y) (h : x.rowsCounted) : y.rowsCounted := by
  induction move with
  | trans _ _ ih ih' => exact ih' (ih h)
  | quiet q =>
    rw [Feed.rowsCounted_iff] at h ⊢
    obtain ⟨idle, empty, counts⟩ := h
    rw [q.state]
    exact ⟨fun c => q.parse.resolve_right (not_not.mpr (idle c)), fun c => q.rows.items_nil (empty c), q.rows.counts counts⟩
  | hold ident c running _ _ =>
    cases c <;> exact rowsCounted_handed h running rfl ⟨_, rfl, rfl⟩ rfl rfl
  | @fill x r slot c ident row running _ _ free =>
    have used : 1 = (x.rows.buffer c).useCount + 1 := by rw [free]
    cases c <;> exact rowsCounted_handed h running rfl ⟨_, rfl, rfl⟩ used rfl
  | @abandon x r _ _ _ =>
    rw [Feed.rowsCounted_iff] at h ⊢
    obtain ⟨idle, empty, counts⟩ := h
    have quiet := RowStore.quiet_change (g := dealItem) (fun i => decide (i.serial = r.serial)) x.rows fun _ => rfl
    exact ⟨idle, fun c => quiet.items_nil (empty c), quiet.counts counts⟩
  | opening stamp addr header _ =>
    obtain ⟨state, parse⟩ := openFrame_state stamp addr header _
    exact Feed.rowsCounted_congr state parse (openFrame_records stamp addr header _).1 h
  | @discard x _ =>
    rw [Feed.rowsCounted_iff] at h ⊢
    obtain ⟨idle, empty, counts⟩ := h
    have quiet := RowStore.quiet_change (g := dealItem) (fun _ => true) x.rows fun _ => rfl
    exact ⟨idle, fun c => quiet.items_nil (empty c), quiet.counts counts⟩
  | @lifecycle x v _ vacant defined faulted =>
    obtain ⟨-, -, counts⟩ := h
    exact ⟨fun c => faulted ((c.resolve_left vacant).resolve_left defined), fun c => absurd c (not_or.mpr ⟨vacant, defined⟩),
      counts⟩
  | wake c vacant defined faulted =>
    obtain ⟨-, -, counts⟩ := h
    exact ⟨fun c => absurd c (not_or.mpr ⟨vacant, not_or.mpr ⟨defined, faulted⟩⟩),
      fun c => absurd c (not_or.mpr ⟨vacant, defined⟩), counts⟩
  | vacate empty =>
    obtain ⟨idle, none, counts⟩ := h
    refine ⟨fun _ => ?_, fun _ => ?_, counts⟩
    · exact empty.elim (fun d => idle (.inr (.inl d))) fun e => e.2
    · exact empty.elim (fun d => none (.inr d)) fun e => e.1
  | clear _ => exact ⟨fun _ => rfl, fun _ => rfl, rfl, rfl⟩
  | _ => exact h

/-- Settles O59: every move keeps the use counts, and a feed is defined where it has no row write. -/
theorem rowsCountedKept : Obligations.RowsCountedKept := by
  unfold Obligations.RowsCountedKept
  intro s t counted h
  refine step_keeps (I := State.rowsCounted) (fun s q inv => inv) ?run ?reset (fun s r _ inv => inv)
    (fun s r u _ _ inv => inv) (fun s inv => inv) h counted
  case run =>
    intro b s t run
    refine run.feeds (I := fun _ x => x.rowsCounted) (fun _ _ _ move => move.rowsCounted) ?_
    intro _ f p x vacant _ inv
    have none : x.rows.items = [] := inv.2.1 (.inl vacant)
    refine ⟨fun _ => rfl, fun _ => none, ?_, ?_⟩ <;> simp [definedFeed, none]
  case reset =>
    intro v s inv f
    have cleared : ∀ u : State, u.feeds = s.feeds.map clearFeed → u.feed f = clearFeed (s.feed f) := fun u e => by
      simp [State.feed, e]
    rw [cleared _ rfl]
    exact ⟨fun _ => rfl, fun _ => rfl, rfl, rfl⟩

end Sys2Proof.Machine
end

section
/-! Frames in order and the browse counts (chapters 2.1, 2.2, 4.3), kept by every move of a feed. -/

namespace Sys2Proof.Machine

/-! ### The order of a record list -/

/-- The records of a feed in order with its open frame and the serial it gives next: the five clauses of
`Feed.framesInOrder` as clauses of a list. -/
def recordsInOrder (l : List FrameRecord) (o : OpenFrame) (next : Count) : Prop :=
  (∀ r ∈ l.dropLast, r.state ≠ .opened) ∧ (∀ r ∈ l.tail, r.state ≠ .sealing)
    ∧ (∀ r ∈ l, r.state = .sealing → r.slot.isSome) ∧ (o ≠ .tracked → ∀ r ∈ l, r.state ≠ .opened)
    ∧ (o = .tracked → ∃ r ∈ l.getLast?, r.state = .opened ∧ r.serial + 1 = next)

theorem framesInOrder_iff (x : Feed) :
    x.framesInOrder ↔ recordsInOrder x.frame.records x.frame.openFrame x.frame.nextSerial := Iff.rfl

theorem recordsInOrder_nil {o : OpenFrame} (next : Count) (h : o ≠ .tracked) : recordsInOrder [] o next :=
  ⟨nofun, nofun, nofun, fun _ => nofun, fun tracked => absurd tracked h⟩

/-- A change of every record that moves no state or serial, and keeps a SEALING record's slot, keeps the order. -/
theorem recordsInOrder_map {l : List FrameRecord} {o : OpenFrame} {next : Count} {g : FrameRecord → FrameRecord}
    (state : ∀ r, (g r).state = r.state) (serial : ∀ r, (g r).serial = r.serial)
    (slot : ∀ r, r.state = .sealing → (g r).slot = r.slot) (h : recordsInOrder l o next) :
    recordsInOrder (l.map g) o next := by
  obtain ⟨front, tail, seals, closed, open_⟩ := h
  refine ⟨?_, ?_, ?_, ?_, fun tracked => ?_⟩
  · intro r hr
    rw [← List.map_dropLast] at hr
    obtain ⟨q, hq, rfl⟩ := List.mem_map.mp hr
    rw [state]
    exact front q hq
  · intro r hr
    rw [← List.map_tail] at hr
    obtain ⟨q, hq, rfl⟩ := List.mem_map.mp hr
    rw [state]
    exact tail q hq
  · intro r hr sealing
    obtain ⟨q, hq, rfl⟩ := List.mem_map.mp hr
    rw [state] at sealing
    rw [slot q sealing]
    exact seals q hq sealing
  · simpa [state] using closed
  · obtain ⟨r, last, opened, given⟩ := open_ tracked
    exact ⟨g r, by rw [List.getLast?_map]; exact Option.mem_map_of_mem g last, by rw [state, opened], by rw [serial, given]⟩

/-- A list in order ends in its OPEN record, where it has one. -/
theorem recordsInOrder_open {l : List FrameRecord} {o : OpenFrame} {next : Count} (h : recordsInOrder l o next)
    {r : FrameRecord} (found : l.find? (fun q => q.state = .opened) = some r) :
    ∃ front, l = front ++ [r] ∧ r.state = .opened ∧ ∀ q ∈ front, q.state ≠ .opened := by
  obtain ⟨opened, pre, post, split, before⟩ := List.find?_eq_some_iff_append.mp found
  rcases List.eq_nil_or_concat post with rfl | ⟨more, q, rfl⟩
  · exact ⟨pre, split, by simpa using opened, fun q hq => by simpa using before q hq⟩
  · have : r ∈ l.dropLast := by
      rw [split, List.concat_eq_append, ← List.cons_append, ← List.append_assoc, List.dropLast_concat]
      simp
    exact absurd (by simpa using opened) (h.1 r this)

/-- The head of a list in order leaves it, where it is not the OPEN record. -/
theorem recordsInOrder_tail {r : FrameRecord} {rest : List FrameRecord} {o : OpenFrame} {next : Count}
    (h : recordsInOrder (r :: rest) o next) (notOpen : r.state ≠ .opened) : recordsInOrder rest o next := by
  obtain ⟨front, tail, seals, closed, open_⟩ := h
  refine ⟨fun q hq => front q ?_, fun q hq => tail q (List.mem_of_mem_tail hq),
    fun q hq => seals q (List.mem_cons_of_mem _ hq), fun o q hq => closed o q (List.mem_cons_of_mem _ hq), fun tracked => ?_⟩
  · cases rest with
    | nil => cases hq
    | cons a rest => exact List.mem_cons_of_mem _ hq
  · obtain ⟨q, last, opened, given⟩ := open_ tracked
    cases rest with
    | nil => cases last; exact absurd opened notOpen
    | cons a rest => exact ⟨q, by rwa [List.getLast?_cons_cons] at last, opened, given⟩

/-- The head of a list in order becomes SEALING, where it has a slot and is not the OPEN record. -/
theorem recordsInOrder_seal {r : FrameRecord} {rest : List FrameRecord} {o : OpenFrame} {next : Count}
    (h : recordsInOrder (r :: rest) o next) (notOpen : r.state ≠ .opened) (slot : r.slot.isSome) :
    recordsInOrder ({ r with state := .sealing } :: rest) o next := by
  obtain ⟨front, tail, seals, closed, open_⟩ := h
  refine ⟨fun q hq => ?_, tail, ?_, ?_, fun tracked => ?_⟩
  · cases rest with
    | nil => cases hq
    | cons a rest =>
      obtain rfl | hq := List.mem_cons.mp hq
      · nofun
      · exact front q (List.mem_cons_of_mem _ hq)
  · rintro q hq
    obtain rfl | hq := List.mem_cons.mp hq
    · exact fun _ => slot
    · exact seals q (List.mem_cons_of_mem _ hq)
  · rintro o q hq
    obtain rfl | hq := List.mem_cons.mp hq
    · nofun
    · exact closed o q (List.mem_cons_of_mem _ hq)
  · obtain ⟨q, last, opened, given⟩ := open_ tracked
    cases rest with
    | nil => cases last; exact absurd opened notOpen
    | cons a rest => exact ⟨q, by rwa [List.getLast?_cons_cons] at last ⊢, opened, given⟩

/-- A record opens at the end of a list that has none OPEN. -/
theorem recordsInOrder_append {l : List FrameRecord} {o : OpenFrame} {next : Count} (h : recordsInOrder l o next)
    (notOpen : o ≠ .tracked) {r : FrameRecord} (opened : r.state = .opened) :
    recordsInOrder (l ++ [r]) .tracked (r.serial + 1) := by
  obtain ⟨-, tail, seals, closed, -⟩ := h
  refine ⟨by rw [List.dropLast_concat]; exact closed notOpen, fun q hq => ?_, fun q hq => ?_, fun c => absurd rfl c,
    fun _ => ⟨r, by simp, opened, rfl⟩⟩
  · cases l with
    | nil => cases hq
    | cons a l =>
      obtain hq | hq := List.mem_append.mp (show q ∈ l ++ [r] from hq)
      · exact tail q hq
      · rw [List.mem_singleton.mp hq, opened]; nofun
  · obtain hq | hq := List.mem_append.mp hq
    · exact seals q hq
    · rw [List.mem_singleton.mp hq, opened]; nofun

/-- The OPEN record closes. -/
theorem recordsInOrder_close {l : List FrameRecord} {o : OpenFrame} {next : Count} (h : recordsInOrder l o next) :
    recordsInOrder (l.map fun r => if r.state = .opened then { r with state := .closed } else r) .none next := by
  have none_open : ∀ r : FrameRecord, (if r.state = .opened then { r with state := .closed } else r).state ≠ .opened := by
    intro r; split
    · nofun
    · assumption
  have sealing : ∀ r : FrameRecord, (if r.state = .opened then { r with state := .closed } else r).state = .sealing →
      r.state = .sealing ∧ (if r.state = .opened then { r with state := .closed } else r).slot = r.slot := by
    intro r; split
    · nofun
    · exact fun h => ⟨h, rfl⟩
  obtain ⟨-, tail, seals, -, -⟩ := h
  refine ⟨fun r hr => ?_, fun r hr => ?_, fun r hr state => ?_, fun _ r hr => ?_, nofun⟩
  · obtain ⟨q, -, rfl⟩ := List.mem_map.mp (List.mem_of_mem_dropLast hr)
    exact none_open q
  · rw [← List.map_tail] at hr
    obtain ⟨q, hq, rfl⟩ := List.mem_map.mp hr
    exact fun c => tail q hq (sealing q c).1
  · obtain ⟨q, hq, rfl⟩ := List.mem_map.mp hr
    rw [(sealing q state).2]
    exact seals q hq (sealing q state).1
  · obtain ⟨q, -, rfl⟩ := List.mem_map.mp hr
    exact none_open q

/-! ### Browse counts -/

/-- The records of a list that have browse. -/
def withBrowse (l : List FrameRecord) : Nat := l.countP fun r => r.slot.isSome

theorem withBrowse_map {g : FrameRecord → FrameRecord} (h : ∀ r, (g r).slot = r.slot) (l : List FrameRecord) :
    withBrowse (l.map g) = withBrowse l := by
  rw [withBrowse, withBrowse, List.countP_map]
  exact List.countP_congr fun r _ => by simp [h]

theorem withBrowse_cons (r : FrameRecord) (l : List FrameRecord) :
    withBrowse (r :: l) = withBrowse l + if r.slot.isSome then 1 else 0 := by
  rw [withBrowse, withBrowse, List.countP_cons]

theorem withBrowse_append (l m : List FrameRecord) : withBrowse (l ++ m) = withBrowse l + withBrowse m :=
  List.countP_append ..

/-- `R ≤ P ≤ A ≤ R + slots` modulo 2^32, A − P the number of records with browse: `Feed.browseCounts` of the counts. -/
def countsAgree (p : Publisher) (n slots : Nat) : Prop :=
  (p.assigned - p.released).toNat = (p.published - p.released).toNat + n
    ∧ (p.assigned - p.released).toNat ≤ slots ∧ slots ≤ 256

theorem browseCounts_iff (x : Feed) :
    x.browseCounts ↔ countsAgree x.publisher (withBrowse x.frame.records) x.params.slotCount := Iff.rfl

/-- One more is one farther, short of 2^32. -/
theorem toNat_add_one_sub {a r : Count} (h : (a - r).toNat ≤ 256) : (a + 1 - r).toNat = (a - r).toNat + 1 := by
  have : a + 1 - r = (a - r) + 1 := add_sub_right_comm a 1 r
  have one : (1 : Count).toNat = 1 := rfl
  rw [this, BitVec.toNat_add, one, Nat.mod_eq_of_lt (by omega)]

/-- One less is one nearer, above 0. -/
theorem toNat_sub_one_sub {a r : Count} (h : 1 ≤ (a - r).toNat) : (a - 1 - r).toNat = (a - r).toNat - 1 := by
  have : a - 1 - r = (a - r) - 1 := sub_right_comm a 1 r
  rw [this, BitVec.toNat_sub_of_le (by rw [BitVec.le_def]; exact h)]
  rfl

theorem countsAgree.assign {p : Publisher} {n slots : Nat} (h : countsAgree p n slots)
    (room : (p.assigned - p.released).toNat ≠ slots) :
    countsAgree { p with assigned := p.assigned + 1 } (n + 1) slots := by
  obtain ⟨sum, bound, small⟩ := h
  have := toNat_add_one_sub (a := p.assigned) (r := p.released) (by omega)
  exact ⟨by dsimp only; omega, by dsimp only; omega, small⟩

theorem countsAgree.unassign {p : Publisher} {n slots : Nat} (h : countsAgree p (n + 1) slots) :
    countsAgree { p with assigned := p.assigned - 1 } n slots := by
  obtain ⟨sum, bound, small⟩ := h
  have := toNat_sub_one_sub (a := p.assigned) (r := p.released) (by omega)
  exact ⟨by dsimp only; omega, by dsimp only; omega, small⟩

theorem countsAgree.publish {p : Publisher} {n slots : Nat} (h : countsAgree p (n + 1) slots) (word : WordState) :
    countsAgree { p with published := p.published + 1, word := word } n slots := by
  obtain ⟨sum, bound, small⟩ := h
  have := toNat_add_one_sub (a := p.published) (r := p.released) (by omega)
  exact ⟨by dsimp only; omega, bound, small⟩

theorem countsAgree.release {p : Publisher} {n slots : Nat} {v : Count} (h : countsAgree p n slots)
    (taken : countTaken v p.released p.published = true) : countsAgree { p with released := v } n slots := by
  obtain ⟨sum, bound, small⟩ := h
  obtain ⟨-, within⟩ := (countTaken_iff _ _ _).mp taken
  have toP := toNat_sub_add_toNat_sub_of_le within
  have toA := toNat_sub_add_toNat_sub_of_le (v := v) (old := p.released) (limit := p.assigned) (by omega)
  exact ⟨by dsimp only; omega, by dsimp only; omega, small⟩

theorem countsAgree.discard {p : Publisher} {n slots : Nat} (h : countsAgree p n slots) (word : WordState) (stale : Bool) :
    countsAgree { p with assigned := p.published, word := word, stale := stale } 0 slots := by
  obtain ⟨sum, bound, small⟩ := h
  exact ⟨rfl, by dsimp only; omega, small⟩

theorem countsAgree_zero {slots : Nat} (small : slots ≤ 256) : countsAgree Publisher.reset 0 slots :=
  ⟨rfl, Nat.zero_le slots, small⟩

/-! ### The moves -/

/-- Frames in order and browse counts in agreement. -/
def Feed.publishing (x : Feed) : Prop := x.framesInOrder ∧ x.browseCounts

/-- A change that keeps the records' states, slots and serials, the open frame and the counts keeps the order. -/
theorem Feed.publishing.congr {x y : Feed} (h : x.publishing) (defn : y.life.defn = x.life.defn)
    (records : ∃ g : FrameRecord → FrameRecord, y.frame.records = x.frame.records.map g
      ∧ ∀ r, (g r).state = r.state ∧ (g r).slot = r.slot ∧ (g r).serial = r.serial)
    (openFrame : y.frame.openFrame = x.frame.openFrame) (nextSerial : y.frame.nextSerial = x.frame.nextSerial)
    (assigned : y.publisher.assigned = x.publisher.assigned) (published : y.publisher.published = x.publisher.published)
    (released : y.publisher.released = x.publisher.released) : y.publishing := by
  obtain ⟨g, records, kept⟩ := records
  obtain ⟨order, counts⟩ := h
  rw [framesInOrder_iff] at order
  rw [browseCounts_iff] at counts
  constructor
  · rw [framesInOrder_iff, records, openFrame, nextSerial]
    exact recordsInOrder_map (fun r => (kept r).1) (fun r => (kept r).2.2) (fun r _ => (kept r).2.1) order
  · rw [browseCounts_iff, records, withBrowse_map fun r => (kept r).2.1]
    unfold countsAgree at counts ⊢
    rw [assigned, published, released, Feed.params, defn]
    exact counts

/-- The row handed on changes no state, slot or serial. -/
theorem handedFeed_records (ident : Nat) (r : FrameRecord) (slot : Nat) (b : BufferId) (x : Feed) :
    ∃ g : FrameRecord → FrameRecord, (handedFeed ident r slot b x).frame.records = x.frame.records.map g
      ∧ ∀ q, (g q).state = q.state ∧ (g q).slot = q.slot ∧ (g q).serial = q.serial :=
  ⟨_, rfl, fun q => by split <;> exact ⟨rfl, rfl, rfl⟩⟩

/-- An OPEN in a feed with no frame open (R29 to R32, R78). -/
theorem publishing_opening {x : Feed} (stamp : Time) (addr : Addr) (h : EssenceHeader)
    (none : x.frame.openFrame = .none) (inv : x.publishing) : (openFrame stamp addr h x).publishing := by
  obtain ⟨order, counts⟩ := inv
  rw [framesInOrder_iff] at order
  rw [browseCounts_iff] at counts
  have closed : x.frame.openFrame ≠ .tracked := by rw [none]; nofun
  unfold openFrame
  dsimp only
  generalize checkTimecode x.params.rateCode x.frame.expectedTimecode h.timecode = tc
  split
  · constructor
    · exact recordsInOrder_append order closed rfl
    · rw [browseCounts_iff]
      simp only [openTracked]
      rw [withBrowse_append]
      have params : (openSerial tc x).params = x.params := rfl
      have publisher : (openSerial tc x).publisher = x.publisher := rfl
      split
      · rename_i reason
        have room : (x.publisher.assigned - x.publisher.released).toNat ≠ x.params.slotCount := by
          intro full
          unfold browseReason at reason
          rw [show ringFull (openSerial tc x) = true from decide_eq_true full, if_pos rfl] at reason
          repeat' split at reason
          all_goals cases reason
        exact counts.assign room
      · exact counts
  · constructor
    · obtain ⟨front, tail, seals, noneOpen, -⟩ := order
      exact ⟨front, tail, seals, fun _ => noneOpen closed, nofun⟩
    · exact counts

/-- Every move of a feed keeps its frames in order and its browse counts in agreement. -/
theorem FeedMove.publishing {b : Bool} {x y : Feed} (move : FeedMove b x y) (h : x.publishing) : y.publishing := by
  induction move with
  | trans _ _ ih ih' => exact ih' (ih h)
  | quiet q => exact h.congr q.defn q.records q.openFrame q.nextSerial q.assigned q.published q.released
  | @hold x r slot ident c _ _ _ => exact h.congr rfl (handedFeed_records ident r slot c (holdBuffer c x)) rfl rfl rfl rfl rfl
  | fill ident row _ _ _ _ => exact h.congr rfl (handedFeed_records ident _ _ _ _) rfl rfl rfl rfl rfl
  | @abandon x r slot found hasSlot =>
    obtain ⟨order, counts⟩ := h
    rw [framesInOrder_iff] at order
    rw [browseCounts_iff] at counts
    obtain ⟨front, split, opened, before⟩ := recordsInOrder_open order found
    constructor
    · exact recordsInOrder_map (fun q => by split <;> rfl) (fun q => by split <;> rfl)
        (fun q sealing => by rw [if_neg (by rw [sealing]; nofun)]) order
    · have unslotted : withBrowse (abandonedFeed r x).frame.records = withBrowse front := by
        have kept : front.map (fun q => if q.state = .opened then { q with reason := .abandoned, slot := none } else q)
            = front.map id := List.map_congr_left fun q hq => if_neg (before q hq)
        simp only [abandonedFeed, Feed.onOpen, split, List.map_append, kept, withBrowse_append]
        simp [withBrowse, opened]
      have slotted : withBrowse x.frame.records = withBrowse front + 1 := by
        rw [split, withBrowse_append]; simp [withBrowse, hasSlot]
      rw [slotted] at counts
      rw [browseCounts_iff, unslotted]
      exact counts.unassign
  | @close x _ =>
    obtain ⟨order, counts⟩ := h
    refine ⟨recordsInOrder_close order, ?_⟩
    rw [browseCounts_iff] at counts ⊢
    have : withBrowse (closedFeed x).frame.records = withBrowse x.frame.records :=
      withBrowse_map (fun r => by split <;> rfl) _
    rw [this]
    exact counts
  | forget untracked =>
    obtain ⟨⟨front, tail, seals, closed, -⟩, counts⟩ := h
    exact ⟨⟨front, tail, seals, fun _ => closed (by rw [untracked]; nofun), nofun⟩, counts⟩
  | opening stamp addr header none => exact publishing_opening stamp addr header none h
  | finish records state slot =>
    obtain ⟨order, counts⟩ := h
    rw [framesInOrder_iff, records] at order
    rw [browseCounts_iff, records, withBrowse_cons, slot] at counts
    exact ⟨recordsInOrder_tail order (by rw [state]; nofun), counts⟩
  | sealing records state slot =>
    obtain ⟨order, counts⟩ := h
    rw [framesInOrder_iff, records] at order
    rw [browseCounts_iff, records, withBrowse_cons] at counts
    refine ⟨recordsInOrder_seal order (by rw [state]; nofun) (by rw [slot]; rfl), ?_⟩
    rw [browseCounts_iff, sealedFeed, withBrowse_cons]
    exact counts
  | header word _ records state =>
    obtain ⟨order, counts⟩ := h
    rw [framesInOrder_iff, records] at order
    have slot := order.2.2.1 _ (List.mem_cons_self ..) state
    rw [browseCounts_iff, records, withBrowse_cons, if_pos slot] at counts
    exact ⟨recordsInOrder_tail order (by rw [state]; nofun), counts.publish word⟩
  | discard publishing =>
    obtain ⟨-, counts⟩ := h
    exact ⟨recordsInOrder_nil _ nofun, countsAgree.discard counts _ _⟩
  | release taken => exact ⟨h.1, countsAgree.release h.2 taken⟩
  | clear _ => exact ⟨recordsInOrder_nil _ nofun, countsAgree_zero (Nat.zero_le _)⟩
  | _ => exact h

/-- Parameters in range give at most 256 slots (R110). -/
theorem slotCount_le_of_inRange {p : FeedParams} (h : p.inRange = true) : p.slotCount ≤ 256 := by
  simp only [FeedParams.inRange, Bool.and_eq_true, decide_eq_true_eq] at h
  obtain ⟨⟨⟨⟨⟨⟨⟨_, slots⟩, -⟩, -⟩, -⟩, -⟩, -⟩, -⟩ := h
  exact slots

/-- Settles O58: every move keeps the order and the counts, and a feed is defined with none of either. -/
theorem publishingKept : Obligations.PublishingKept := by
  unfold Obligations.PublishingKept
  intro s t publishing h
  refine step_keeps (I := fun s => ∀ f, (s.feed f).publishing) (fun s q inv => inv) ?run ?reset (fun s r _ inv => inv)
    (fun s r u _ _ inv => inv) (fun s inv => inv) h publishing
  case run =>
    intro b s t run
    refine run.feeds (I := fun _ => Feed.publishing) (fun _ _ _ move => move.publishing) ?_
    intro _ f p x _ inRange _
    exact ⟨recordsInOrder_nil _ nofun, countsAgree_zero (slotCount_le_of_inRange inRange)⟩
  case reset =>
    intro v s inv f
    have cleared : ∀ u : State, u.feeds = s.feeds.map clearFeed → u.feed f = clearFeed (s.feed f) := fun u e => by
      simp [State.feed, e]
    rw [cleared _ rfl]
    exact ⟨recordsInOrder_nil _ nofun, countsAgree_zero (Nat.zero_le _)⟩

end Sys2Proof.Machine
end

section
/-! The insertion queue's quotas, age order and tags (chapters 7.4, 8.2 to 8.4), kept by every move of the part. -/

namespace Sys2Proof.Machine

/-! ### Quotas -/

/-- Every entry of the queue is of a kind its source makes, and within the quota of its kind. -/
def queueFits (q : List InsEntry) : Prop :=
  ∀ e ∈ q, kindFits e.source e.kind = true
    ∧ (q.countP fun x => decide (x.source = e.source) && decide (x.kind = e.kind)) ≤ e.kind.limit

theorem queueFits.sublist {p q : List InsEntry} (h : queueFits q) (sub : p.Sublist q) : queueFits p :=
  fun e he => ⟨(h e (sub.subset he)).1, Nat.le_trans (sub.countP_le) (h e (sub.subset he)).2⟩

theorem queueFits.map {q : List InsEntry} {g : InsEntry → InsEntry} (h : queueFits q)
    (kept : ∀ e, (g e).source = e.source ∧ (g e).kind = e.kind) : queueFits (q.map g) := by
  intro e he
  obtain ⟨a, ha, rfl⟩ := List.mem_map.mp he
  rw [(kept a).1, (kept a).2, List.countP_map]
  refine ⟨(h a ha).1, Nat.le_trans (Nat.le_of_eq (List.countP_congr fun x _ => ?_)) (h a ha).2⟩
  simp [kept]

theorem queueFits.append {q : List InsEntry} {e : InsEntry} (h : queueFits q) (fits : kindFits e.source e.kind = true)
    (room : quotaRoom q e.source e.kind = true) : queueFits (q ++ [e]) := by
  have room : (q.countP fun x => decide (x.source = e.source) && decide (x.kind = e.kind)) < e.kind.limit := by
    simpa [quotaRoom] using room
  intro x hx
  rw [List.countP_append]
  obtain hx | hx := List.mem_append.mp hx
  · refine ⟨(h x hx).1, ?_⟩
    by_cases same : e.source = x.source ∧ e.kind = x.kind
    · rw [← same.1, ← same.2]
      simpa using room
    · have : [e].countP (fun y => decide (y.source = x.source) && decide (y.kind = x.kind)) = 0 := by
        simpa [List.countP_cons] using same
      rw [this]
      exact (h x hx).2
  · obtain rfl := List.mem_singleton.mp hx
    exact ⟨fits, by simpa using room⟩

/-! ### Ages -/

/-- The queue stands in age order, below the next age. -/
def queueAged (q : List InsEntry) (next : Nat) : Prop :=
  (q.map InsEntry.age).Pairwise (· < ·) ∧ ∀ e ∈ q, e.age < next

theorem queueAged.sublist {p q : List InsEntry} {next : Nat} (h : queueAged q next) (sub : p.Sublist q) :
    queueAged p next :=
  ⟨h.1.sublist (sub.map _), fun e he => h.2 e (sub.subset he)⟩

theorem queueAged.map {q : List InsEntry} {next : Nat} {g : InsEntry → InsEntry} (h : queueAged q next)
    (kept : ∀ e, (g e).age = e.age) : queueAged (q.map g) next := by
  have ages : (q.map g).map InsEntry.age = q.map InsEntry.age := by
    rw [List.map_map]
    exact List.map_congr_left fun e _ => kept e
  refine ⟨ages ▸ h.1, fun e he => ?_⟩
  obtain ⟨a, ha, rfl⟩ := List.mem_map.mp he
  rw [kept]
  exact h.2 a ha

theorem queueAged.append {q : List InsEntry} {e : InsEntry} (h : queueAged q e.age) :
    queueAged (q ++ [e]) (e.age + 1) := by
  constructor
  · rw [List.map_append, List.pairwise_append]
    refine ⟨h.1, List.pairwise_singleton .., fun a ha b hb => ?_⟩
    obtain ⟨x, hx, rfl⟩ := List.mem_map.mp ha
    obtain rfl := List.mem_singleton.mp hb
    exact h.2 x hx
  · intro x hx
    obtain hx | hx := List.mem_append.mp hx
    · exact Nat.lt_succ_of_lt (h.2 x hx)
    · rw [List.mem_singleton.mp hx]
      exact Nat.lt_succ_self _

/-- An age names one entry. -/
theorem queueAged.eq {q : List InsEntry} {next : Nat} (h : queueAged q next) {a b : InsEntry} (ha : a ∈ q) (hb : b ∈ q)
    (same : a.age = b.age) : a = b :=
  List.inj_on_of_nodup_map (h.1.imp fun lt => Nat.ne_of_lt lt) ha hb same

/-! ### Tags -/

/-- A tag is INSERTION exactly where an entry is ISSUED on it, and no two entries share one. -/
def queueTagged (q : List InsEntry) (tags : Vector TagState 128) : Prop :=
  (∀ t : Tag, tags[t] = .insertion ↔ ∃ e ∈ q, e.state = .issued t)
    ∧ q.Pairwise fun a b => a.state = .queued ∨ a.state ≠ b.state

/-- A state of one tag put in, read at a tag. -/
theorem getElem_set (tags : Vector TagState 128) (t u : Tag) (v : TagState) :
    (tags.set t v)[u] = if t = u then v else tags[u] := by
  simp [Vector.getElem_set, Fin.ext_iff]

/-- After entries are orphaned a tag holds the identity of one ISSUED on it, where there is one, and is else as it was. -/
theorem foldl_orphanTag_cases (l : List InsEntry) (tags : Vector TagState 128) (u : Tag) :
    ((l.foldl orphanTag tags)[u] = tags[u] ∧ ∀ e ∈ l, e.state ≠ .issued u)
      ∨ ∃ e ∈ l, e.state = .issued u ∧ (l.foldl orphanTag tags)[u] = .orphaned e.ident := by
  induction l generalizing tags with
  | nil => exact .inl ⟨rfl, fun _ h => absurd h List.not_mem_nil⟩
  | cons e l ih =>
    rw [List.foldl_cons]
    obtain ⟨same, others⟩ | ⟨x, hx, issued, tag⟩ := ih (orphanTag tags e)
    · rw [same]
      cases state : e.state with
      | queued =>
        refine .inl ⟨by rw [orphanTag, state], fun x hx => ?_⟩
        obtain rfl | hx := List.mem_cons.mp hx
        · rw [state]; nofun
        · exact others x hx
      | issued t =>
        rw [show orphanTag tags e = tags.set t (.orphaned e.ident) by rw [orphanTag, state], getElem_set]
        by_cases here : t = u
        · exact .inr ⟨e, List.mem_cons_self .., by rw [state, here], if_pos here⟩
        · refine .inl ⟨if_neg here, fun x hx => ?_⟩
          obtain rfl | hx := List.mem_cons.mp hx
          · rw [state]; exact fun c => here (EntryState.issued.inj c)
          · exact others x hx
    · exact .inr ⟨x, List.mem_cons_of_mem _ hx, issued, tag⟩

/-- A tag holds one entry. -/
theorem queueTagged.eq {q : List InsEntry} {tags : Vector TagState 128} (h : queueTagged q tags) {a b : InsEntry}
    (ha : a ∈ q) (hb : b ∈ q) {t : Tag} (onA : a.state = .issued t) (onB : b.state = .issued t) : a = b := by
  by_contra ne
  have apart : q.Pairwise fun a b => ¬ (a.state = .issued t ∧ b.state = .issued t) :=
    h.2.imp fun {a b} c both => by rw [both.1, both.2] at c; simp at c
  have symm : Std.Symm fun a b : InsEntry => ¬ (a.state = .issued t ∧ b.state = .issued t) :=
    ⟨fun _ _ c both => c both.symm⟩
  exact apart.forall ha hb ne ⟨onA, onB⟩

/-- Entries that stay keep the tags they are ISSUED on, where those tags and no other ones are still INSERTION. -/
theorem queueTagged.sublist {p q : List InsEntry} {tags tags' : Vector TagState 128} (h : queueTagged q tags)
    (sub : p.Sublist q) (agree : ∀ t : Tag, tags'[t] = .insertion ↔ ∃ e ∈ p, e.state = .issued t) : queueTagged p tags' :=
  ⟨agree, h.2.sublist sub⟩

theorem queueTagged.append {q : List InsEntry} {tags : Vector TagState 128} {e : InsEntry} (h : queueTagged q tags)
    (queued : e.state = .queued) : queueTagged (q ++ [e]) tags := by
  constructor
  · intro t
    rw [h.1 t]
    constructor
    · rintro ⟨x, hx, on⟩
      exact ⟨x, List.mem_append_left _ hx, on⟩
    · rintro ⟨x, hx, on⟩
      obtain hx | hx := List.mem_append.mp hx
      · exact ⟨x, hx, on⟩
      · rw [List.mem_singleton.mp hx, queued] at on; cases on
  · rw [List.pairwise_append]
    refine ⟨h.2, List.pairwise_singleton .., fun a _ b hb => ?_⟩
    obtain rfl := List.mem_singleton.mp hb
    rw [queued]
    exact Decidable.em _

theorem queueTagged.map {q : List InsEntry} {tags : Vector TagState 128} {g : InsEntry → InsEntry} (h : queueTagged q tags)
    (kept : ∀ e, (g e).state = e.state) : queueTagged (q.map g) tags := by
  constructor
  · intro t
    rw [h.1 t]
    simp [kept]
  · rw [List.pairwise_map]
    simpa [kept] using h.2

/-- Entries withdrawn (R166, R167). -/
theorem queueTagged.withdraw {q : List InsEntry} {tags : Vector TagState 128} (h : queueTagged q tags)
    (p : InsEntry → Bool) : queueTagged (q.filter fun e => !p e) ((q.filter p).foldl orphanTag tags) := by
  refine h.sublist List.filter_sublist fun t => ?_
  obtain ⟨same, others⟩ | ⟨x, hx, issued, orphaned⟩ := foldl_orphanTag_cases (q.filter p) tags t
  · rw [same, h.1 t]
    constructor
    · rintro ⟨e, he, on⟩
      exact ⟨e, List.mem_filter.mpr ⟨he, by simpa using fun c => others e (List.mem_filter.mpr ⟨he, c⟩) on⟩, on⟩
    · rintro ⟨e, he, on⟩
      exact ⟨e, (List.mem_filter.mp he).1, on⟩
  · rw [orphaned]
    refine ⟨nofun, ?_⟩
    rintro ⟨e, he, on⟩
    obtain ⟨hx, px⟩ := List.mem_filter.mp hx
    obtain ⟨he, pe⟩ := List.mem_filter.mp he
    rw [h.eq he hx on issued, px] at pe
    cases pe

/-- A tag no entry is ISSUED on becomes something else than INSERTION. -/
theorem queueTagged.set {q : List InsEntry} {tags : Vector TagState 128} {t : Tag} {v : TagState} (h : queueTagged q tags)
    (free : ∀ e ∈ q, e.state ≠ .issued t) (other : v ≠ .insertion) : queueTagged q (tags.set t v) := by
  refine ⟨fun u => ?_, h.2⟩
  rw [getElem_set]
  split
  · rename_i same
    refine ⟨fun c => absurd c other, ?_⟩
    rintro ⟨e, he, on⟩
    exact absurd (same ▸ on) (free e he)
  · exact h.1 u

/-- A QUEUED entry is ISSUED on a FREE tag (R161). -/
theorem queueTagged.issue {q : List InsEntry} {tags : Vector TagState 128} {next : Nat} {e : InsEntry} {t : Tag}
    (aged : queueAged q next) (h : queueTagged q tags) (he : e ∈ q) (queued : e.state = .queued)
    (free : tags[t] = .free) :
    queueTagged (changeEntry e.age (fun x => { x with state := .issued t }) q) (tags.set t .insertion) := by
  have noneOn : ∀ x ∈ q, x.state ≠ .issued t := fun x hx on => by
    have := (h.1 t).mpr ⟨x, hx, on⟩
    rw [free] at this
    cases this
  constructor
  · intro u
    rw [getElem_set]
    by_cases same : t = u
    · rw [if_pos same]
      exact ⟨fun _ => ⟨{ e with state := .issued t }, List.mem_map.mpr ⟨e, he, if_pos rfl⟩, by rw [same]⟩, fun _ => rfl⟩
    · rw [if_neg same, h.1 u]
      constructor
      · rintro ⟨x, hx, on⟩
        refine ⟨x, List.mem_map.mpr ⟨x, hx, if_neg fun age => ?_⟩, on⟩
        rw [aged.eq hx he age, queued] at on
        cases on
      · rintro ⟨y, hy, on⟩
        obtain ⟨x, hx, rfl⟩ := List.mem_map.mp hy
        split at on
        · cases on; exact absurd rfl same
        · exact ⟨x, hx, on⟩
  · rw [changeEntry, List.pairwise_map]
    refine (h.2.and (List.pairwise_map.mp aged.1)).imp_of_mem fun {a b} ha hb ⟨apart, older⟩ => ?_
    split <;> split
    · omega
    · exact .inr fun c => noneOn b hb c.symm
    · exact .inr fun c => noneOn a ha c
    · exact apart

/-- The entry ISSUED on a tag is QUEUED again and the tag FREE (R164). -/
theorem queueTagged.retry {q : List InsEntry} {tags : Vector TagState 128} {next : Nat} {e : InsEntry} {t : Tag}
    (aged : queueAged q next) (h : queueTagged q tags) (he : e ∈ q) (issued : e.state = .issued t)
    {g : InsEntry → InsEntry} (queued : ∀ x, (g x).state = .queued) :
    queueTagged (changeEntry e.age g q) (tags.set t .free) := by
  constructor
  · intro u
    rw [getElem_set]
    by_cases same : t = u
    · rw [if_pos same]
      refine ⟨nofun, ?_⟩
      rintro ⟨y, hy, on⟩
      obtain ⟨x, hx, rfl⟩ := List.mem_map.mp hy
      split at on
      · rw [queued] at on; cases on
      · rename_i other
        exact absurd (congrArg InsEntry.age (h.eq hx he (same ▸ on) issued)) other
    · rw [if_neg same, h.1 u]
      constructor
      · rintro ⟨x, hx, on⟩
        refine ⟨x, List.mem_map.mpr ⟨x, hx, if_neg fun age => ?_⟩, on⟩
        rw [aged.eq hx he age, issued] at on
        exact same (EntryState.issued.inj on)
      · rintro ⟨y, hy, on⟩
        obtain ⟨x, hx, rfl⟩ := List.mem_map.mp hy
        split at on
        · rw [queued] at on; cases on
        · exact ⟨x, hx, on⟩
  · rw [changeEntry, List.pairwise_map]
    refine h.2.imp fun {a b} apart => ?_
    split <;> split
    · exact .inl (queued a)
    · exact .inl (queued a)
    · rw [queued]; exact Decidable.em _
    · exact apart

/-- The entry ISSUED on a tag leaves and the tag is FREE (R162). -/
theorem queueTagged.drop {q : List InsEntry} {tags : Vector TagState 128} {next : Nat} {e : InsEntry} {t : Tag}
    (aged : queueAged q next) (h : queueTagged q tags) (he : e ∈ q) (issued : e.state = .issued t) :
    queueTagged (q.filter fun x => decide (x.age ≠ e.age)) (tags.set t .free) := by
  refine h.sublist List.filter_sublist fun u => ?_
  rw [getElem_set]
  by_cases same : t = u
  · rw [if_pos same]
    refine ⟨nofun, ?_⟩
    rintro ⟨x, hx, on⟩
    obtain ⟨hx, other⟩ := List.mem_filter.mp hx
    rw [h.eq hx he (same ▸ on) issued] at other
    simp at other
  · rw [if_neg same, h.1 u]
    constructor
    · rintro ⟨x, hx, on⟩
      refine ⟨x, List.mem_filter.mpr ⟨hx, decide_eq_true fun age => ?_⟩, on⟩
      rw [aged.eq hx he age, issued] at on
      exact same (EntryState.issued.inj on)
    · rintro ⟨x, hx, on⟩
      exact ⟨x, (List.mem_filter.mp hx).1, on⟩

/-! ### The moves -/

/-- The insertion queue within its quotas, in age order and in agreement with the tags. -/
def State.queueKept (s : State) : Prop :=
  queueFits s.insQ ∧ queueAged s.insQ s.nextAge ∧ queueTagged s.insQ s.tags

theorem queueKept_iff (s : State) : s.queueKept ↔ s.quotasKept ∧ s.agesRise ∧ s.tagsAgree := Iff.rfl

/-- The entry found on a tag is in the queue and ISSUED on it. -/
theorem entryOn_mem {q : List InsEntry} {t : Tag} {e : InsEntry} (h : entryOn q t = some e) :
    e ∈ q ∧ e.state = .issued t :=
  ⟨List.mem_of_find?_eq_some h, by simpa using List.find?_some h⟩

theorem State.queueKept.congr {s t : State} (h : s.queueKept) (insQ : t.insQ = s.insQ) (nextAge : t.nextAge = s.nextAge)
    (tags : t.tags = s.tags) : t.queueKept := by
  unfold State.queueKept at h ⊢
  rwa [insQ, nextAge, tags]

/-- An entry made joins the queue. -/
theorem State.queueKept.join {s : State} (h : s.queueKept) {d : EntryDraft} (fits : kindFits d.source d.kind = true)
    (room : quotaRoom s.insQ d.source d.kind = true) :
    queueFits (s.insQ ++ [d.entry s.nextAge]) ∧ queueAged (s.insQ ++ [d.entry s.nextAge]) (s.nextAge + 1)
      ∧ queueTagged (s.insQ ++ [d.entry s.nextAge]) s.tags :=
  ⟨h.1.append fits room, queueAged.append (e := d.entry s.nextAge) h.2.1, h.2.2.append rfl⟩

theorem State.queueKept.drop {s : State} (h : s.queueKept) {e : InsEntry} {t : Tag} (found : entryOn s.insQ t = some e) :
    (s.freed e t).queueKept :=
  have ⟨mem, issued⟩ := entryOn_mem found
  ⟨h.1.sublist List.filter_sublist, h.2.1.sublist List.filter_sublist, h.2.2.drop h.2.1 mem issued⟩

/-- Every move keeps the insertion queue so. -/
theorem Run.queueKept {b : Bool} {s t : State} (run : Run b s t) (h : s.queueKept) : t.queueKept := by
  induction run with
  | trans _ _ ih ih' => exact ih' (ih h)
  | outside o => exact h.congr o.insQ o.nextAge o.tags
  | @make s d fits _ =>
    obtain same | ⟨-, room, eq⟩ := makeEntry_cases d s
    · rwa [same]
    · rw [eq]; exact h.join fits room
  | withdraw p => exact ⟨h.1.sublist List.filter_sublist, h.2.1.sublist List.filter_sublist, h.2.2.withdraw p⟩
  | replace w v =>
    exact ⟨h.1.map fun e => by split <;> exact ⟨rfl, rfl⟩, h.2.1.map fun e => by split <;> rfl,
      h.2.2.map fun e => by split <;> rfl⟩
  | @startBatch s =>
    obtain same | ⟨d, -, ready, eq⟩ := startBatch_cases s
    · rwa [same]
    · rw [eq]
      simp only [batchReady, Bool.and_eq_true] at ready
      exact h.join rfl ready.2
  | @makeNotice s =>
    obtain same | ⟨n, rest, staging, ready, eq⟩ := makeNoticeEntry_cases s
    · rwa [same]
    · rw [eq]
      exact h.join rfl (quotaRoom_of_none fun e he c => ((noticeReady_iff staging).mp ready).1 e he c.2)
  | @untag s t free =>
    refine ⟨h.1, h.2.1, h.2.2.set (fun e he on => ?_) nofun⟩
    obtain other | absent := free
    · exact other ((h.2.2.1 t).mpr ⟨e, he, on⟩)
    · simpa [on] using List.find?_eq_none.mp absent e he
  | @issue s e t mem queued free =>
    exact ⟨h.1.map fun e => by split <;> exact ⟨rfl, rfl⟩, h.2.1.map fun e => by split <;> rfl,
      h.2.2.issue h.2.1 mem queued free⟩
  | @retry s e t d _ found =>
    obtain ⟨mem, issued⟩ := entryOn_mem found
    exact ⟨h.1.map fun e => by split <;> exact ⟨rfl, rfl⟩, h.2.1.map fun e => by split <;> rfl,
      h.2.2.retry h.2.1 mem issued fun _ => rfl⟩
  | drop _ found => exact h.drop found
  | noticeDone _ found _ => exact (h.drop found).congr rfl rfl rfl
  | @firstAge s n empty => exact ⟨h.1, ⟨h.2.1.1, by simp [empty]⟩, h.2.2⟩
  | _ => exact h

theorem queueKept_of_empty {s : State} (insQ : s.insQ = []) (tags : ∀ t : Tag, s.tags[t] ≠ .insertion) : s.queueKept := by
  unfold State.queueKept
  rw [insQ]
  exact ⟨nofun, ⟨List.Pairwise.nil, nofun⟩, fun t => ⟨fun c => absurd c (tags t),
    fun ⟨_, h, _⟩ => absurd h List.not_mem_nil⟩, List.Pairwise.nil⟩

/-- Settles O57: every move keeps the queue so, and a forward issue takes a FREE tag. -/
theorem insertionQueueKept : Obligations.InsertionQueueKept := by
  unfold Obligations.InsertionQueueKept
  intro s t quotas ages tags h
  refine step_keeps (I := State.queueKept) (fun s q inv => inv) (fun _ _ _ run inv => run.queueKept inv) ?reset
    (fun s r _ inv => inv) ?issue (fun s inv => inv) h ⟨quotas, ages, tags⟩
  case reset =>
    intro v s _
    exact queueKept_of_empty rfl fun t => by simp [State.reset]
  case issue =>
    intro s r u free _ inv
    refine ⟨inv.1, inv.2.1, inv.2.2.set (fun e he on => ?_) nofun⟩
    have := (inv.2.2.1 u).mpr ⟨e, he, on⟩
    rw [lowestFree_free free] at this
    cases this

end Sys2Proof.Machine
end

section
/-! The windows of the two rings, and the window table kept apart (chapters 5.1, 5.4, 6.2, 7.2, 9.4). -/

namespace Sys2Proof.Machine

/-! ### The ring windows -/

/-- The distance from a count after `n` more, short of 2^32. -/
theorem toNat_add_ofNat_sub {a r : Count} {n : Nat} (h : (a - r).toNat + n < 2 ^ 32) :
    (a + BitVec.ofNat 32 n - r).toNat = (a - r).toNat + n := by
  rw [add_sub_right_comm a _ r, BitVec.toNat_add, BitVec.toNat_ofNat, Nat.mod_eq_of_lt (a := n) (by omega),
    Nat.mod_eq_of_lt h]

/-- The distance of two counts that are 0. -/
theorem toNat_zero_sub_zero_le (n : Nat) : ((0 : Count) - 0).toNat ≤ n := Nat.zero_le n

/-- The notice entries of the queue. -/
def noticeCount (q : List InsEntry) : Nat := q.countP fun e => decide (e.kind = .notice)

theorem noticeWindow_iff (s : State) : s.noticeWindow ↔ (s.notices.produced - s.notices.consumed).toNat ≤ 64
    ∧ noticeCount s.insQ ≤ 1 ∧ (0 < noticeCount s.insQ → (s.notices.produced - s.notices.consumed).toNat < 64) := by
  have : noticeInQueue s.insQ = true ↔ 0 < noticeCount s.insQ := by
    rw [noticeInQueue, noticeCount, List.any_eq_true, List.countP_pos_iff]
  rw [State.noticeWindow, this]
  exact Iff.rfl

/-- Fewer notice entries, and no greater a distance, keep the notice window. -/
theorem noticeWindow_mono {s t : State} (h : s.noticeWindow) (fewer : noticeCount t.insQ ≤ noticeCount s.insQ)
    (nearer : (t.notices.produced - t.notices.consumed).toNat ≤ (s.notices.produced - s.notices.consumed).toNat) :
    t.noticeWindow := by
  rw [noticeWindow_iff] at h ⊢
  obtain ⟨near, one, below⟩ := h
  exact ⟨by omega, by omega, fun some => by have := below (by omega); omega⟩

theorem noticeCount_map {q : List InsEntry} {g : InsEntry → InsEntry} (kept : ∀ e, (g e).kind = e.kind) :
    noticeCount (q.map g) = noticeCount q := by
  rw [noticeCount, noticeCount, List.countP_map]
  exact List.countP_congr fun e _ => by simp [kept]

theorem noticeCount_filter (q : List InsEntry) (p : InsEntry → Bool) : noticeCount (q.filter p) ≤ noticeCount q :=
  List.filter_sublist.countP_le

theorem noticeCount_append {q : List InsEntry} {e : InsEntry} (other : e.kind ≠ .notice) :
    noticeCount (q ++ [e]) = noticeCount q := by
  simp [noticeCount, List.countP_append, other]

/-- A notice entry that leaves is one notice entry less. -/
theorem noticeCount_drop {q : List InsEntry} {e : InsEntry} (he : e ∈ q) (notice : e.kind = .notice) :
    noticeCount (q.filter fun x => decide (x.age ≠ e.age)) < noticeCount q := by
  rw [noticeCount, noticeCount, List.countP_filter]
  obtain ⟨front, back, rfl⟩ := List.append_of_mem he
  have le : ∀ l : List InsEntry, (l.countP fun x => decide (x.kind = .notice) && decide (x.age ≠ e.age))
      ≤ l.countP fun x => decide (x.kind = .notice) :=
    fun l => List.countP_mono_left fun x _ c => (Bool.and_eq_true _ _ ▸ c).1
  have := le front
  have := le back
  simp only [List.countP_append, List.countP_cons, notice, decide_true, Bool.true_and, ne_eq, not_true_eq_false,
    decide_false, if_true, Bool.false_eq_true, if_false] at *
  omega

/-- Every move keeps the notice window. -/
theorem Run.noticeWindow {b : Bool} {s t : State} (run : Run b s t) (h : s.noticeWindow) : t.noticeWindow := by
  induction run with
  | trans _ _ ih ih' => exact ih' (ih h)
  | outside o => exact noticeWindow_mono h (by rw [o.insQ]) (by rw [o.notices])
  | @make s d _ other =>
    obtain same | ⟨-, -, eq⟩ := makeEntry_cases d s
    · rwa [same]
    · rw [eq]
      exact noticeWindow_mono h (noticeCount_append other).le le_rfl
  | withdraw p => exact noticeWindow_mono h (noticeCount_filter _ _) le_rfl
  | replace w v => exact noticeWindow_mono h (noticeCount_map fun e => by split <;> rfl).le le_rfl
  | @startBatch s =>
    obtain same | ⟨d, -, -, eq⟩ := startBatch_cases s
    · rwa [same]
    · rw [eq]
      exact noticeWindow_mono h (noticeCount_append (fun c => by cases c)).le le_rfl
  | notices produced consumed _ => exact noticeWindow_mono h le_rfl (by rw [produced, consumed])
  | @makeNotice s =>
    obtain same | ⟨n, rest, staging, ready, eq⟩ := makeNoticeEntry_cases s
    · rwa [same]
    · obtain ⟨absent, below, -⟩ := (noticeReady_iff staging).mp ready
      have none : noticeCount s.insQ = 0 := List.countP_eq_zero.mpr fun e he => by simpa using absent e he
      rw [eq, noticeWindow_iff]
      refine ⟨Nat.le_of_lt below, ?_, fun _ => below⟩
      simp only [noticeCount, List.countP_append] at none ⊢
      rw [none, Nat.zero_add]
      exact List.countP_le_length
  | noticeConsumed taken => exact noticeWindow_mono h le_rfl (toNat_sub_lt_of_countTaken taken).le
  | noNotices => exact noticeWindow_mono h le_rfl (toNat_zero_sub_zero_le _)
  | issue _ _ _ => exact noticeWindow_mono h (noticeCount_map fun e => by split <;> rfl).le le_rfl
  | retry d _ _ => exact noticeWindow_mono h (noticeCount_map fun e => by split <;> rfl).le le_rfl
  | drop _ _ => exact noticeWindow_mono h (noticeCount_filter _ _) le_rfl
  | @noticeDone s e t _ found notice =>
    have fewer := noticeCount_drop (entryOn_mem found).1 notice
    rw [noticeWindow_iff] at h ⊢
    obtain ⟨-, one, below⟩ := h
    have below := below (by omega)
    have more := toNat_add_one_sub (a := s.notices.produced) (r := s.notices.consumed) (by omega)
    dsimp only [State.freed]
    exact ⟨by omega, by omega, fun some => by omega⟩
  | _ => exact h

/-- Every move keeps the catalogue window. -/
theorem Run.catalogueWindow {b : Bool} {s t : State} (run : Run b s t) (h : s.catalogueWindow) : t.catalogueWindow := by
  induction run with
  | trans _ _ ih ih' => exact ih' (ih h)
  | outside o => unfold State.catalogueWindow at h ⊢; rwa [o.catalogue]
  | @make s d _ _ =>
    obtain same | ⟨-, -, eq⟩ := makeEntry_cases d s
    · rwa [same]
    · rw [eq]; exact h
  | @makeNotice s =>
    obtain same | ⟨n, rest, -, -, eq⟩ := makeNoticeEntry_cases s
    · rwa [same]
    · rw [eq]; exact h
  | catalogue defn _ staging produced consumed batch =>
    unfold State.catalogueWindow at h ⊢
    dsimp only
    rw [defn, staging, produced, consumed]
    obtain batch | batch := batch
    · rwa [batch]
    · rw [batch]
      exact ⟨nofun, fun d hd => ⟨(h.2 d hd).1, (h.2 d hd).2.1, nofun⟩⟩
  | index r _ =>
    obtain ⟨sized, window⟩ := h
    refine ⟨fun b hb => ⟨(sized b hb).1, Nat.le_trans (sized b hb).2 ?_⟩, window⟩
    simp
  | @startBatch s =>
    obtain same | ⟨d, defined, ready, eq⟩ := startBatch_cases s
    · rwa [same]
    · rw [eq]
      simp only [batchReady, Bool.and_eq_true, decide_eq_true_eq] at ready
      obtain ⟨⟨-, one⟩, -⟩ := ready
      have staged : batchSize s.catalogue d ≤ s.catalogue.staging.length := Nat.min_le_left ..
      have room : batchSize s.catalogue d ≤ d.entries - (s.catalogue.produced - s.catalogue.consumed).toNat := by
        unfold batchSize
        omega
      refine ⟨fun b hb => ?_, fun d' hd' => ?_⟩
      · cases hb
        exact ⟨one, staged⟩
      · rw [defined] at hd'
        cases hd'
        obtain ⟨small, near, -⟩ := h.2 d defined
        refine ⟨small, near, fun b hb => ?_⟩
        cases hb
        dsimp only
        omega
  | batchDone batch =>
    refine ⟨nofun, fun d hd => ?_⟩
    obtain ⟨small, -, fits⟩ := h.2 d hd
    have fits := fits _ batch
    dsimp only
    rw [toNat_add_ofNat_sub (by omega)]
    exact ⟨small, fits, nofun⟩
  | indexConsumed taken =>
    refine ⟨h.1, fun d hd => ?_⟩
    obtain ⟨small, near, fits⟩ := h.2 d hd
    have nearer := toNat_sub_lt_of_countTaken taken
    refine ⟨small, by dsimp only; omega, fun b hb => ?_⟩
    have := fits b hb
    dsimp only
    omega
  | @ring s p done =>
    unfold catalogueResult at done
    split at done
    · cases done
    split at done
    · cases done
    rename_i idle inRange
    have noStaging : s.catalogue.staging = [] := by
      simp only [catalogueBusy, Bool.or_eq_true, not_or] at idle
      simpa using idle.1.2
    have noBatch : s.catalogue.batch = none := by
      cases batch : s.catalogue.batch with
      | none => rfl
      | some b =>
        have := h.1 b batch
        rw [noStaging, List.length_nil] at this
        omega
    have entries : p.entries ≤ 65536 := by
      simp only [CatalogueParams.inRange, Bool.and_eq_true, List.any_eq_true, List.mem_range, decide_eq_true_eq,
        Bool.not_eq_true', Bool.not_eq_false] at inRange
      obtain ⟨⟨⟨⟨⟨-, k, hk, size⟩, -⟩, -⟩, -⟩, -⟩ := inRange
      have : 2 ^ k ≤ 2 ^ 10 := Nat.pow_le_pow_right (by omega) (by omega)
      omega
    refine ⟨h.1, fun d hd => ?_⟩
    cases hd
    refine ⟨entries, toNat_zero_sub_zero_le _, fun b hb => ?_⟩
    have : s.catalogue.batch = some b := hb
    rw [noBatch] at this
    cases this
  | noRing => exact ⟨nofun, nofun⟩
  | _ => exact h

/-! ### The spans of the window table -/

/-- An address lies in a span. -/
def inSpan (a : Nat) (w : Span) : Prop := w.1 ≤ a ∧ a < w.1 + w.2

/-- No address lies in two spans that share no byte. -/
theorem inSpan_of_apart {a : Nat} {u v : Span} (apart : spansShare u v = false) (inU : inSpan a u) : ¬ inSpan a v := by
  intro inV
  have : spansShare u v = true := (rangesShare_iff _ _ _ _).mpr ⟨a, inU.1, inU.2, inV.1, inV.2⟩
  rw [apart] at this
  cases this

theorem spansShare_comm (u v : Span) : spansShare u v = spansShare v u := by
  rw [Bool.eq_iff_iff, spansShare, spansShare, rangesShare_iff, rangesShare_iff]
  constructor <;> rintro ⟨x, h⟩ <;> exact ⟨x, by omega⟩

/-- The spans that are no feed's: the control block and the catalogue region. -/
def State.ownSpans (s : State) : List Span := controlSpan s :: (s.catalogue.region.map Region.span).toList

/-- The window table is apart where the part's own spans are, each feed's are, a feed's are from the part's own, and two
feeds' are from each other. -/
theorem windowSpans_apart_iff (s : State) : (s.windowSpans.Pairwise fun u v => spansShare u v = false) ↔
    (s.ownSpans.Pairwise fun u v => spansShare u v = false)
      ∧ (∀ f, (feedSpans (s.feed f)).Pairwise fun u v => spansShare u v = false)
      ∧ (∀ f, ∀ u ∈ s.ownSpans, ∀ v ∈ feedSpans (s.feed f), spansShare u v = false)
      ∧ ∀ f g, f ≠ g → ∀ u ∈ feedSpans (s.feed f), ∀ v ∈ feedSpans (s.feed g), spansShare u v = false := by
  have symm : Std.Symm fun f g : FeedId => ∀ u ∈ feedSpans (s.feed f), ∀ v ∈ feedSpans (s.feed g), spansShare u v = false :=
    ⟨fun _ _ apart u hu v hv => by rw [spansShare_comm]; exact apart v hv u hu⟩
  have all : ∀ f : FeedId, f ∈ allFeeds := List.mem_finRange
  rw [State.windowSpans, ← State.ownSpans, List.pairwise_append, List.pairwise_flatMap]
  constructor
  · rintro ⟨own, ⟨each, two⟩, cross⟩
    exact ⟨own, fun f => each f (all f), fun f u hu v hv => cross u hu v (List.mem_flatMap.mpr ⟨f, all f, hv⟩),
      fun f g ne => two.forall (all f) (all g) ne⟩
  · rintro ⟨own, each, cross, two⟩
    refine ⟨own, ⟨fun f _ => each f, (List.nodup_finRange 16).pairwise_of_forall_ne fun f _ g _ ne => two f g ne⟩, ?_⟩
    intro u hu v hv
    obtain ⟨f, -, hv⟩ := List.mem_flatMap.mp hv
    exact cross f u hu v hv

/-! ### The moves of the windows -/

/-- A feed keeps its windows and becomes not VACANT, or has none. -/
def windowsMoved (x y : Feed) : Prop :=
  (y.ingest = x.ingest ∧ y.browse = x.browse ∧ (y.life.state = .vacant → x.life.state = .vacant))
    ∨ (y.ingest = none ∧ y.browse = none)

theorem FeedMove.windows {b : Bool} {x y : Feed} (move : FeedMove b x y) : windowsMoved x y := by
  induction move with
  | trans _ _ ih ih' =>
    obtain ⟨ingest, browse, vacant⟩ | none := ih'
    · obtain ⟨ingest', browse', vacant'⟩ | none' := ih
      · exact .inl ⟨ingest.trans ingest', browse.trans browse', vacant' ∘ vacant⟩
      · exact .inr ⟨ingest.trans none'.1, browse.trans none'.2⟩
    · exact .inr none
  | quiet q => exact .inl ⟨q.ingest, q.browse, fun c => q.state ▸ c⟩
  | @opening x stamp addr header _ =>
    have same : (openFrame stamp addr header x).ingest = x.ingest ∧ (openFrame stamp addr header x).browse = x.browse
        ∧ (openFrame stamp addr header x).life.state = x.life.state := by
      unfold openFrame
      dsimp only
      split
      · exact ⟨rfl, rfl, rfl⟩
      · exact ⟨rfl, rfl, rfl⟩
    exact .inl ⟨same.1, same.2.1, fun c => same.2.2 ▸ c⟩
  | lifecycle _ notVacant _ _ => exact .inl ⟨rfl, rfl, fun c => absurd c notVacant⟩
  | vacate _ => exact .inr ⟨rfl, rfl⟩
  | clear _ => exact .inr ⟨rfl, rfl⟩
  | _ => exact .inl ⟨rfl, rfl, id⟩

/-- A feed's windows moved are its windows or none. -/
theorem windowsMoved.feedSpans {x y : Feed} (h : windowsMoved x y) : feedSpans y = feedSpans x ∨ feedSpans y = [] := by
  obtain ⟨ingest, browse, -⟩ | ⟨ingest, browse⟩ := h
  · exact .inl (by rw [Machine.feedSpans, Machine.feedSpans, ingest, browse])
  · exact .inr (by rw [Machine.feedSpans, ingest, browse]; rfl)

/-- The windows stay apart where each feed's move so and the part's own stay or go. -/
theorem windowsApart_of_moved {s t : State} (h : s.windowsApart) (own : t.ownSpans.Sublist s.ownSpans)
    (moved : ∀ f, windowsMoved (s.feed f) (t.feed f)) : t.windowsApart := by
  obtain ⟨vacant, rings, apart⟩ := h
  rw [windowSpans_apart_iff] at apart
  obtain ⟨apartOwn, each, cross, two⟩ := apart
  have kept : ∀ f, ∀ w ∈ feedSpans (t.feed f), w ∈ feedSpans (s.feed f) := fun f w hw => by
    obtain same | none := (moved f).feedSpans
    · rwa [same] at hw
    · rw [none] at hw; cases hw
  refine ⟨fun f v => ?_, fun f w hw => ?_, (windowSpans_apart_iff t).mpr ⟨apartOwn.sublist own, fun f => ?_, ?_, ?_⟩⟩
  · obtain ⟨ingest, browse, was⟩ | none := moved f
    · rw [ingest, browse]; exact vacant f (was v)
    · exact none
  · obtain ⟨ingest, -, -⟩ | none := moved f
    · exact rings f w (ingest ▸ hw)
    · rw [none.1] at hw; cases hw
  · obtain same | none := (moved f).feedSpans
    · rw [same]; exact each f
    · rw [none]; exact List.Pairwise.nil
  · exact fun f u hu v hv => cross f u (own.subset hu) v (kept f v hv)
  · exact fun f g ne u hu v hv => two f g ne u (kept f u hu) v (kept g v hv)

theorem windowsMoved.refl (x : Feed) : windowsMoved x x := .inl ⟨rfl, rfl, id⟩

/-- A ring's test and the range of its bytes: 64 KiB times a power of two, at a multiple of its size (R110, R134). -/
def IngestWindow.ring (w : IngestWindow) : Prop :=
  ∃ k : Fin 15, w.mask = ~~~(BitVec.ofNat 40 (65536 * 2 ^ k.val - 1)) ∧ w.base.toNat % (65536 * 2 ^ k.val) = 0

/-- The parts of the range test of DEFINE FEED that place its windows (R110). -/
theorem windows_of_inRange {p : FeedParams} (h : p.inRange = true) :
    (∃ k < 15, p.ingestSize = 65536 * 2 ^ k) ∧ p.ingestBase % p.ingestSize = 0 ∧ p.ingestBase + p.ingestSize ≤ 2 ^ 40
      ∧ 4096 ≤ p.slotCount * p.slotSize ∧ p.browseBase + p.slotCount * p.slotSize ≤ 2 ^ 40 := by
  simp only [FeedParams.inRange, Bool.and_eq_true, decide_eq_true_eq, List.any_eq_true, List.mem_range] at h
  obtain ⟨⟨⟨⟨⟨⟨⟨⟨⟨⟨⟨⟨⟨⟨sizes, aligned⟩, ingest⟩, -⟩, slot⟩, -⟩, -⟩, slots⟩, -⟩, browse⟩, -⟩, -⟩, -⟩, -⟩, -⟩ := h
  refine ⟨sizes, aligned, ingest, ?_, browse⟩
  calc 4096 ≤ 1 * p.slotSize := by omega
    _ ≤ p.slotCount * p.slotSize := Nat.mul_le_mul_right _ (by omega)

/-- The spans a definition in range puts into the window table (R112). -/
theorem feedSpans_definedFeed {p : FeedParams} (h : p.inRange = true) (x : Feed) :
    feedSpans (definedFeed p x) = [(p.ingestBase, p.ingestSize), (p.browseBase, p.slotCount * p.slotSize)] := by
  obtain ⟨⟨k, hk, size⟩, -, ingest, slots, browse⟩ := windows_of_inRange h
  have positive : 0 < p.ingestSize := by rw [size]; positivity
  have ingestSpan : p.ingestWindow.span = (p.ingestBase, p.ingestSize) := by
    simp only [IngestWindow.span, IngestWindow.size, FeedParams.ingestWindow, BitVec.not_not, BitVec.toNat_ofNat]
    rw [Nat.mod_eq_of_lt (by omega), Nat.mod_eq_of_lt (by omega), Nat.sub_add_cancel positive]
  have browseSpan : p.browseRegion.span = (p.browseBase, p.slotCount * p.slotSize) := by
    simp only [Region.span, Region.size, FeedParams.browseRegion, BitVec.toNat_ofNat]
    rw [Nat.mod_eq_of_lt (by omega), Nat.mod_eq_of_lt (by omega)]
    congr 1
    omega
  rw [← ingestSpan, ← browseSpan]
  rfl

theorem ring_ingestWindow {p : FeedParams} (h : p.inRange = true) : p.ingestWindow.ring := by
  obtain ⟨⟨k, hk, size⟩, aligned, ingest, -, -⟩ := windows_of_inRange h
  have positive : 0 < p.ingestSize := by rw [size]; positivity
  refine ⟨⟨k, hk⟩, by rw [← size]; rfl, ?_⟩
  simp only [FeedParams.ingestWindow, BitVec.toNat_ofNat]
  rw [Nat.mod_eq_of_lt (a := p.ingestBase) (b := 2 ^ 40) (by omega), ← size, aligned]

/-- What DONE of DEFINE FEED says (R111). -/
theorem done_defineResult {f : FeedId} {p : FeedParams} {s : State} (h : defineResult f p s = .done) :
    p.inRange = true ∧ definesOverlap f p s = false := by
  unfold defineResult at h
  split_ifs at h with _ _ _ range overlap
  exact ⟨by simpa using range, by simpa using overlap⟩

/-- A definition puts its two windows beside windows they do not meet. -/
theorem windowsApart_define {s : State} {f : FeedId} {p : FeedParams} (h : s.windowsApart) (inRange : p.inRange = true)
    (clear : definesOverlap f p s = false) : (s.modFeed f (definedFeed p)).windowsApart := by
  obtain ⟨vacant, rings, apart⟩ := h
  rw [windowSpans_apart_iff] at apart
  obtain ⟨apartOwn, each, cross, two⟩ := apart
  simp only [definesOverlap, watchedSpans, Bool.or_eq_false_iff, List.any_eq_false, Bool.not_eq_true] at clear
  obtain ⟨apartSelf, clear⟩ := clear
  have spans := feedSpans_definedFeed inRange (s.feed f)
  have clearOf : ∀ u, u ∈ s.ownSpans ∨ (∃ g ≠ f, u ∈ feedSpans (s.feed g)) → ∀ v ∈ feedSpans (definedFeed p (s.feed f)),
      spansShare u v = false := by
    intro u hu v hv
    have mem : u ∈ s.ownSpans ++ (allFeeds.filter fun g => decide (g ≠ f)).flatMap fun g => feedSpans (s.feed g) := by
      obtain hu | ⟨g, ne, hu⟩ := hu
      · exact List.mem_append_left _ hu
      · exact List.mem_append_right _ (List.mem_flatMap.mpr
          ⟨g, List.mem_filter.mpr ⟨List.mem_finRange g, decide_eq_true ne⟩, hu⟩)
    obtain ⟨ingest, browse⟩ := clear u mem
    rw [spans] at hv
    rw [spansShare_comm]
    obtain rfl | hv := List.mem_cons.mp hv
    · exact ingest
    · rw [List.mem_singleton.mp hv]; exact browse
  refine ⟨fun g => ?_, fun g w hw => ?_, (windowSpans_apart_iff _).mpr
    ⟨apartOwn, fun g => ?_, fun g u hu v hv => ?_, fun g k ne u hu v hv => ?_⟩⟩
  · rw [State.feed_modFeed]
    split
    · nofun
    · exact vacant g
  · rw [State.feed_modFeed] at hw
    split at hw
    · cases hw; exact ring_ingestWindow inRange
    · exact rings g w hw
  · rw [State.feed_modFeed]
    split
    · rw [spans]; exact List.pairwise_pair.mpr apartSelf
    · exact each g
  · rw [State.feed_modFeed] at hv
    split at hv
    · exact clearOf u (.inl hu) v hv
    · exact cross g u hu v hv
  · rw [State.feed_modFeed] at hu hv
    split at hu <;> split at hv
    · rename_i a b; exact absurd (a.trans b.symm) ne
    · rename_i other
      rw [spansShare_comm]
      exact clearOf v (.inr ⟨k, other, hv⟩) u hu
    · rename_i other _
      exact clearOf u (.inr ⟨g, other, hu⟩) v hv
    · exact two g k ne u hu v hv

/-- A part with no feed defined has its own windows alone. -/
theorem windowsApart_of_none {s : State} (none : ∀ f, (s.feed f).ingest = none ∧ (s.feed f).browse = none)
    (own : s.ownSpans.Pairwise fun u v => spansShare u v = false) : s.windowsApart := by
  have spans : ∀ f, feedSpans (s.feed f) = [] := fun f => by rw [feedSpans, (none f).1, (none f).2]; rfl
  refine ⟨fun f _ => none f, fun f w hw => ?_, (windowSpans_apart_iff s).mpr ⟨own, fun f => ?_, ?_, ?_⟩⟩
  · rw [(none f).1] at hw; cases hw
  · rw [spans]; exact List.Pairwise.nil
  · intro f u _ v hv; rw [spans] at hv; cases hv
  · intro f g _ u hu; rw [spans] at hu; cases hu

/-- A catalogue region is set while every feed is VACANT, and clear of the control block (R91). -/
theorem windowsApart_ring {s : State} {p : CatalogueParams} (h : s.windowsApart) (done : catalogueResult p s = .done) :
    State.windowsApart { s with catalogue := setCatalogueTo p s.catalogue } := by
  unfold catalogueResult at done
  split at done
  · cases done
  split at done
  · cases done
  split at done
  · cases done
  rename_i idle inRange apart
  have vacant : ∀ f, (s.feed f).life.state = .vacant := by
    simp only [catalogueBusy, Bool.or_eq_true, not_or, List.any_eq_true, not_exists, not_and] at idle
    intro f
    simpa using idle.1.1 f (List.mem_finRange f)
  have fits : 1 ≤ p.entries ∧ p.base + 64 * p.entries ≤ 2 ^ 40 := by
    simp only [CatalogueParams.inRange, Bool.and_eq_true, List.any_eq_true, List.mem_range, decide_eq_true_eq,
      Bool.not_eq_true', Bool.not_eq_false] at inRange
    obtain ⟨⟨⟨⟨⟨-, k, -, size⟩, -⟩, -⟩, -⟩, room⟩ := inRange
    have : 0 < 2 ^ k := by positivity
    exact ⟨by omega, room⟩
  refine windowsApart_of_none (fun f => h.1 f (vacant f)) (List.pairwise_pair.mpr ?_)
  have span : Region.span { base := BitVec.ofNat 40 p.base, limit := BitVec.ofNat 40 (p.base + 64 * p.entries - 1) }
      = (p.base, 64 * p.entries) := by
    simp only [Region.span, Region.size, BitVec.toNat_ofNat]
    rw [Nat.mod_eq_of_lt (by omega), Nat.mod_eq_of_lt (by omega)]
    congr 1
    omega
  rw [span, spansShare_comm]
  exact eq_false_of_ne_true apart

/-- Every move keeps the windows apart. -/
theorem Run.windowsApart {b : Bool} {s t : State} (run : Run b s t) (h : s.windowsApart) : t.windowsApart := by
  induction run with
  | trans _ _ ih ih' => exact ih' (ih h)
  | outside o =>
    refine windowsApart_of_moved h ?_ fun f => State.feed_congr o.feeds f ▸ windowsMoved.refl _
    simp only [State.ownSpans, controlSpan, State.controlBase, o.straps, o.catalogue]
    exact List.Sublist.refl _
  | @feed s f y move =>
    refine windowsApart_of_moved h (List.Sublist.refl _) fun g => ?_
    rw [State.feed_setFeed]
    split
    · rename_i same
      exact same ▸ move.windows
    · exact windowsMoved.refl _
  | @allFeeds s g move =>
    refine windowsApart_of_moved h (List.Sublist.refl _) fun f => ?_
    rw [State.feed_map]
    exact (move _).windows
  | @define s f p _ done =>
    obtain ⟨inRange, clear⟩ := done_defineResult done
    exact windowsApart_define h inRange clear
  | @make s d _ _ =>
    obtain same | ⟨-, -, eq⟩ := makeEntry_cases d s
    · rwa [same]
    · rw [eq]; exact h
  | @makeNotice s =>
    obtain same | ⟨n, rest, -, -, eq⟩ := makeNoticeEntry_cases s
    · rwa [same]
    · rw [eq]; exact h
  | @startBatch s =>
    obtain same | ⟨d, -, -, eq⟩ := startBatch_cases s
    · rwa [same]
    · rw [eq]; exact h
  | catalogue _ region _ _ _ _ =>
    refine windowsApart_of_moved h ?_ fun f => windowsMoved.refl _
    simp only [State.ownSpans, controlSpan, State.controlBase, region]
    exact List.Sublist.refl _
  | ring done => exact windowsApart_ring h done
  | noRing =>
    refine windowsApart_of_moved h ?_ fun f => windowsMoved.refl _
    simp [State.ownSpans, controlSpan, State.controlBase, Catalogue.reset]
  | _ => exact h

/-! ### The classes of an address -/

/-- The bits of an address from bit `n` up are the multiple of 2^n below it. -/
theorem toNat_and_not_ones (a : Addr) (n : Nat) :
    (a &&& ~~~(BitVec.ofNat 40 (2 ^ n - 1))).toNat = a.toNat / 2 ^ n * 2 ^ n := by
  have bits : a &&& ~~~(BitVec.ofNat 40 (2 ^ n - 1)) = (a >>> n) <<< n := by
    apply BitVec.eq_of_getLsbD_eq
    intro i hi
    rw [BitVec.getLsbD_and, BitVec.getLsbD_not, BitVec.getLsbD_ofNat, Nat.testBit_two_pow_sub_one,
      BitVec.getLsbD_shiftLeft, BitVec.getLsbD_ushiftRight]
    by_cases low : i < n
    · simp [low]
    · simp [low, hi, show n + (i - n) = i by omega]
  have small : a.toNat / 2 ^ n * 2 ^ n < 2 ^ 40 := Nat.lt_of_le_of_lt (Nat.div_mul_le_self ..) a.isLt
  rw [bits, BitVec.toNat_shiftLeft, BitVec.toNat_ushiftRight, Nat.shiftRight_eq_div_pow, Nat.shiftLeft_eq,
    Nat.mod_eq_of_lt small]

/-- A ring's address test is the range of its bytes (R134). -/
theorem ring_holds_iff {w : IngestWindow} (h : w.ring) (a : Addr) :
    a &&& w.mask = w.base ↔ w.base.toNat ≤ a.toNat ∧ a.toNat < w.base.toNat + w.size := by
  obtain ⟨k, mask, aligned⟩ := h
  have pow : 65536 * 2 ^ k.val = 2 ^ (16 + k.val) := by rw [Nat.pow_add]
  have positive : 0 < 2 ^ (16 + k.val) := by positivity
  have below : 2 ^ (16 + k.val) ≤ 2 ^ 30 := Nat.pow_le_pow_right (by omega) (by omega)
  rw [pow] at mask aligned
  have size : w.size = 2 ^ (16 + k.val) := by
    rw [IngestWindow.size, mask, BitVec.not_not, BitVec.toNat_ofNat, Nat.mod_eq_of_lt (by omega), Nat.sub_add_cancel positive]
  rw [← BitVec.toNat_inj, mask, toNat_and_not_ones, size]
  obtain ⟨q, hq⟩ := Nat.dvd_of_mod_eq_zero aligned
  have split := Nat.div_add_mod a.toNat (2 ^ (16 + k.val))
  have rest := Nat.mod_lt a.toNat positive
  rw [hq, Nat.mul_comm (_ / _)]
  generalize 2 ^ (16 + k.val) = n at *
  constructor
  · intro same
    omega
  · rintro ⟨above, under⟩
    have q' : a.toNat / n = q := Nat.div_eq_of_lt_le (by rw [Nat.mul_comm]; exact above)
      (by rw [Nat.mul_comm, Nat.mul_succ]; exact under)
    rw [q']

theorem inControl_iff (s : State) (a : Addr) : inControl s a = true ↔ inSpan a.toNat (controlSpan s) := by
  simp only [inControl, Bool.and_eq_true, decide_eq_true_eq]
  exact Iff.rfl

/-- A region's test is the range of its bytes. -/
theorem region_holds_iff (g : Region) (a : Addr) : g.holds a = true ↔ inSpan a.toNat g.span := by
  simp only [Region.holds, Bool.and_eq_true, decide_eq_true_eq, inSpan, Region.span, Region.size]
  omega

/-- The spans of the windows of a class (R134). -/
def classSpans (s : State) : RequestClass → List Span
  | .control => [controlSpan s]
  | .catalogue => (s.catalogue.region.map Region.span).toList
  | .ingest f => ((s.feed f).ingest.map IngestWindow.span).toList
  | .browse f => ((s.feed f).browse.map Region.span).toList
  | .other => []

/-- An address lies in a window of the class. -/
def inClass (s : State) (a : Addr) (c : RequestClass) : Prop := ∃ u ∈ classSpans s c, inSpan a.toNat u

/-- The classes that have windows. -/
def windowClasses : List RequestClass :=
  .control :: .catalogue :: allFeeds.flatMap fun f => [.ingest f, .browse f]

theorem mem_windowClasses {c : RequestClass} (h : c ≠ .other) : c ∈ windowClasses := by
  cases c with
  | control => exact List.mem_cons_self ..
  | catalogue => exact List.mem_cons_of_mem _ (List.mem_cons_self ..)
  | ingest f => simp [windowClasses, allFeeds]
  | browse f => simp [windowClasses, allFeeds]
  | other => exact absurd rfl h

theorem windowSpans_eq (s : State) : s.windowSpans = windowClasses.flatMap (classSpans s) := by
  rw [windowClasses, List.flatMap_cons, List.flatMap_cons, List.flatMap_assoc, State.windowSpans]
  simp [classSpans, feedSpans]

/-- An address lies in the windows of one class at most, where no two windows share a byte. -/
theorem inClass_unique {s : State} (h : s.windowsApart) {a : Addr} {c d : RequestClass} (inC : inClass s a c)
    (inD : inClass s a d) : c = d := by
  have apart := h.2.2
  rw [windowSpans_eq, List.pairwise_flatMap] at apart
  have symm : Std.Symm fun c d => ∀ u ∈ classSpans s c, ∀ v ∈ classSpans s d, spansShare u v = false :=
    ⟨fun _ _ apart u hu v hv => by rw [spansShare_comm]; exact apart v hv u hu⟩
  obtain ⟨u, hu, inU⟩ := inC
  obtain ⟨v, hv, inV⟩ := inD
  have windows : ∀ {c w}, w ∈ classSpans s c → c ∈ windowClasses := fun hw =>
    mem_windowClasses fun c => by subst c; cases hw
  by_contra ne
  exact inSpan_of_apart (apart.2.forall (windows hu) (windows hv) ne u hu v hv) inU inV

theorem inClass_control_iff (s : State) (a : Addr) : inClass s a .control ↔ inControl s a = true := by
  rw [inControl_iff]
  simp [inClass, classSpans]

theorem inClass_catalogue_iff (s : State) (a : Addr) :
    inClass s a .catalogue ↔ ∃ g ∈ s.catalogue.region, g.holds a = true := by
  simp only [region_holds_iff]
  cases e : s.catalogue.region <;> simp [inClass, classSpans, e]

theorem inClass_browse_iff (s : State) (a : Addr) (f : FeedId) :
    inClass s a (.browse f) ↔ ∃ g ∈ (s.feed f).browse, g.holds a = true := by
  simp only [region_holds_iff]
  cases e : (s.feed f).browse <;> simp [inClass, classSpans, e]

theorem inClass_ingest_iff {s : State} (h : s.windowsApart) (a : Addr) (f : FeedId) :
    inClass s a (.ingest f) ↔ ∃ w ∈ (s.feed f).ingest, w.holds a = true := by
  have test : ∀ w ∈ (s.feed f).ingest, (w.holds a = true ↔ inSpan a.toNat w.span) := fun w hw => by
    rw [IngestWindow.holds, decide_eq_true_eq]
    exact ring_holds_iff (h.2.1 f w hw) a
  cases e : (s.feed f).ingest with
  | none => simp [inClass, classSpans, e]
  | some w => simp [inClass, classSpans, e, test w e]

/-- An address is of the class in whose windows it lies, and of no class that has windows where it lies in none. -/
theorem inClass_classify {s : State} (h : s.windowsApart) (a : Addr) :
    inClass s a (classify s a) ∨ classify s a = .other ∧ ∀ c, ¬ inClass s a c := by
  unfold classify
  split
  · rename_i control
    exact .inl ((inClass_control_iff s a).mpr control)
  rename_i control
  split
  · rename_i catalogue
    exact .inl ((inClass_catalogue_iff s a).mpr ((Option.any_eq_true _ _).mp catalogue))
  rename_i catalogue
  split
  · rename_i f found
    have passes := List.find?_some found
    exact .inl ((inClass_ingest_iff h a f).mpr ((Option.any_eq_true _ _).mp passes))
  rename_i ingest
  split
  · rename_i f found
    have passes := List.find?_some found
    exact .inl ((inClass_browse_iff s a f).mpr ((Option.any_eq_true _ _).mp passes))
  rename_i browse
  refine .inr ⟨rfl, fun c inC => ?_⟩
  cases c with
  | control => exact control ((inClass_control_iff s a).mp inC)
  | catalogue => exact catalogue ((Option.any_eq_true _ _).mpr ((inClass_catalogue_iff s a).mp inC))
  | ingest f =>
    exact List.find?_eq_none.mp ingest f (List.mem_finRange f)
      ((Option.any_eq_true _ _).mpr ((inClass_ingest_iff h a f).mp inC))
  | browse f =>
    exact List.find?_eq_none.mp browse f (List.mem_finRange f)
      ((Option.any_eq_true _ _).mpr ((inClass_browse_iff s a f).mp inC))
  | other => obtain ⟨u, hu, -⟩ := inC; cases hu

theorem classify_eq_iff {s : State} (h : s.windowsApart) (a : Addr) {c : RequestClass} (window : c ≠ .other) :
    classify s a = c ↔ inClass s a c := by
  obtain inIt | ⟨other, noClass⟩ := inClass_classify h a
  · exact ⟨fun e => e ▸ inIt, fun inC => inClass_unique h inIt inC⟩
  · exact ⟨fun e => absurd (e.symm.trans other) window, fun inC => absurd inC (noClass c)⟩

/-- Settles O60: the moves keep the windows, and windows apart make the classes byte ranges. -/
theorem ringWindowsKept : Obligations.RingWindowsKept := by
  unfold Obligations.RingWindowsKept
  refine ⟨fun s t catalogue notice h => ?_, fun s t apart h => ?_, fun s a apart => ?_⟩
  · refine step_keeps (I := fun s => s.catalogueWindow ∧ s.noticeWindow) (fun s q inv => inv)
      (fun _ _ _ run inv => ⟨run.catalogueWindow inv.1, run.noticeWindow inv.2⟩) ?_
      (fun s r _ inv => inv) (fun s r u _ _ inv => inv) (fun s inv => inv) h ⟨catalogue, notice⟩
    intro v s _
    exact ⟨⟨nofun, nofun⟩, toNat_zero_sub_zero_le _, Nat.zero_le _, nofun⟩
  · refine step_keeps (I := State.windowsApart) (fun s q inv => inv) (fun _ _ _ run inv => run.windowsApart inv) ?_
      (fun s r _ inv => inv) (fun s r u _ _ inv => inv) (fun s inv => inv) h apart
    intro v s _
    refine windowsApart_of_none (fun f => ?_) (List.pairwise_singleton ..)
    have cleared : ∀ u : State, u.feeds = s.feeds.map clearFeed → u.feed f = clearFeed (s.feed f) := fun u e => by
      simp [State.feed, e]
    rw [cleared _ rfl]
    exact ⟨rfl, rfl⟩
  · refine ⟨?_, ?_, fun f => ?_, fun f => ?_, fun f w hw => ring_holds_iff (apart.2.1 f w hw) a⟩
    · rw [classify_eq_iff apart a (by simp), inClass_control_iff, inControl_iff]
      exact Iff.rfl
    · rw [classify_eq_iff apart a (by simp), inClass_catalogue_iff]
      simp [Region.holds]
    · rw [classify_eq_iff apart a (by simp), inClass_ingest_iff apart]
      simp [IngestWindow.holds]
    · rw [classify_eq_iff apart a (by simp), inClass_browse_iff]
      simp [Region.holds]

end Sys2Proof.Machine
end

section
/-! The part as a whole at reset, and the acceptance of a request (chapters 7.1, 7.2, 7.6, 7.7, 9.2). -/

namespace Sys2Proof.Machine

/-! ### A step, reset and a forward answer -/

/-- Settles O1, by the definition of a step. -/
theorem stepRunsFront : Obligations.StepRunsFront := by
  unfold Obligations.StepRunsFront
  refine ⟨fun c rest s front => ?_, fun s empty => ?_⟩
  · rw [step, front]
    rfl
  · rw [step, empty]

@[simp] theorem reset_feed (f : FeedId) : State.reset.feed f = Feed.reset := by
  simp [State.feed, State.reset]

theorem reset_tags (t : Tag) : State.reset.tags[t] = .free := by
  simp [State.reset]

/-- Settles O3: every queue is empty, every feed is at its reset value, and the control block is the one window. -/
theorem resetMeetsInvariants : Obligations.ResetMeetsInvariants := by
  unfold Obligations.ResetMeetsInvariants
  obtain ⟨quotas, ages, tags⟩ : State.reset.queueKept := queueKept_of_empty rfl fun t => by rw [reset_tags]; nofun
  refine ⟨by decide, fun f => ?_, quotas, ages, tags, fun f => ?_, fun f => ?_, ⟨nofun, nofun⟩, ?_, ?_⟩
  · rw [reset_feed]; decide
  · rw [reset_feed]
    exact ⟨recordsInOrder_nil _ nofun, countsAgree_zero (Nat.zero_le _)⟩
  · rw [reset_feed]
    exact ⟨fun _ => rfl, fun _ => rfl, rfl, rfl⟩
  · exact ⟨toNat_zero_sub_zero_le _, Nat.zero_le _, nofun⟩
  · exact windowsApart_of_none (fun f => by rw [reset_feed]; exact ⟨rfl, rfl⟩) (List.pairwise_singleton ..)

/-- Settles O4: the state after power-on reset is written out in the step's definition. -/
theorem powerOnReset : Obligations.PowerOnReset := by
  unfold Obligations.PowerOnReset
  intro v s
  refine ⟨{ State.reset with pending := s.pending, straps := v, feeds := s.feeds.map clearFeed }, rfl, rfl, rfl, rfl, rfl,
    fun u => reset_tags u, rfl, rfl, rfl, rfl, rfl, rfl, rfl, rfl, fun f => ?_⟩
  rw [powerOnReset_feed rfl]
  exact ⟨rfl, rfl, rfl, rfl, rfl, rfl, rfl, rfl, rfl, rfl, rfl⟩

/-- Settles O16: a FORWARD tag gives its answer back upstream. -/
theorem forwardAnswer : Obligations.ForwardAnswer := by
  unfold Obligations.ForwardAnswer
  intro t a m d s tag _
  simp only [exec, execForwardAnswer, tag]
  rfl

/-! ### What is a capture -/

theorem keepsRule_iff (r : FabricRequest) : keepsRule r = true ↔
    32 ≤ r.body.length ∧ r.body.length ≤ 4096 ∧ r.body.length % 32 = 0 ∧ r.addr.toNat % 32 = 0
      ∧ r.addr.toNat / 4096 = (r.addr.toNat + r.body.length - 1) / 4096 := by
  simp only [keepsRule, Bool.and_eq_true, decide_eq_true_eq, and_assoc, Config.blockBytes]

/-- Lanes all enabled are the lanes of their data. -/
theorem lanes_of_whole {lanes : List Lane} (whole : lanesWhole lanes = true) :
    (lanes.map Lane.data).map (fun b => { data := b, enable := true }) = lanes := by
  rw [List.map_map]
  refine (List.map_congr_left fun l hl => ?_).trans (List.map_id lanes)
  have enabled : l.enable = true := List.all_eq_true.mp whole l hl
  rw [Function.comp_apply, ← enabled]
  rfl

theorem whole_lanes (data : List Byte) : lanesWhole (data.map fun b => { data := b, enable := true }) = true := by
  simp [lanesWhole]

theorem data_lanes (data : List Byte) : (data.map fun b => ({ data := b, enable := true } : Lane)).map Lane.data = data := by
  rw [List.map_map]
  exact List.map_id data

/-- An address of the control block, below 2^40 whatever the straps. -/
theorem toNat_control (s : State) {offset : Nat} (h : offset < 65536) :
    (BitVec.ofNat 40 (s.straps.toNat * 4294967296 + offset)).toNat = s.straps.toNat * 4294967296 + offset := by
  have := s.straps.isLt
  rw [BitVec.toNat_ofNat, Nat.mod_eq_of_lt (by omega)]

theorem controlBase_eq (s : State) : s.controlBase = s.straps.toNat * 4294967296 := rfl

theorem inControl_bounds (s : State) (a : Addr) : inControl s a = true ↔
    s.straps.toNat * 4294967296 ≤ a.toNat ∧ a.toNat < s.straps.toNat * 4294967296 + 65536 := inControl_iff s a

/-- A request is captured where it is a whole write of one command slot (R130, R173). -/
theorem captureOf_eq_some_iff (s : State) (r : FabricRequest) (c : Command) : captureOf s r = some c ↔
    c.bytes.length = 64 ∧ r.body = .write (c.bytes.map fun b => { data := b, enable := true })
      ∧ ∃ k, k < 32 ∧ r.addr = BitVec.ofNat 40 (s.straps.toNat * 4294967296 + 64 * k) := by
  constructor
  · intro captured
    unfold captureOf at captured
    split at captured
    · cases captured
    · rename_i lanes body
      split at captured
      · rename_i tests
        cases captured
        simp only [Bool.and_eq_true, decide_eq_true_eq, inControl_bounds] at tests
        simp only [controlBase_eq, Config.commandRingBytes] at tests
        obtain ⟨⟨⟨⟨⟨-, above, -⟩, ring⟩, slot⟩, length⟩, whole⟩ := tests
        refine ⟨by simpa using length, by rw [lanes_of_whole whole, body],
          (r.addr.toNat - s.straps.toNat * 4294967296) / 64, by omega, ?_⟩
        apply BitVec.eq_of_toNat_eq
        rw [toNat_control s (by omega)]
        omega
      · cases captured
  · rintro ⟨length, body, k, hk, addr⟩
    have at_ := congrArg BitVec.toNat addr
    rw [toNat_control s (by omega)] at at_
    have rule : keepsRule r = true := by
      rw [keepsRule_iff, body, Body.length, List.length_map, length, at_]
      omega
    have control : inControl s r.addr = true := by
      rw [inControl_bounds, at_]
      omega
    simp only [captureOf, body]
    rw [if_pos]
    · rw [data_lanes]
    · have offset : r.addr.toNat - s.controlBase = 64 * k := by rw [controlBase_eq, at_, Nat.add_sub_cancel_left]
      simp only [rule, control, whole_lanes, offset, length, List.length_map, Bool.and_eq_true, decide_eq_true_eq,
        Config.commandRingBytes, true_and, and_true]
      omega

/-- A watched word beyond the last byte written is not taken. -/
theorem snooped_beyond {s : State} {addr : Addr} {lanes : List Lane} {offset : Nat}
    (h : addr.toNat + lanes.length ≤ s.controlBase + offset) : snooped s addr lanes offset = none := by
  unfold snooped
  dsimp only
  split
  · have : lanes.drop (s.controlBase + offset - addr.toNat) = [] := List.drop_eq_nil_of_le (by omega)
    simp [coveredWord, this]
  · rfl

/-- A write that ends below the watched words moves none of them. -/
theorem snoop_below {s : State} {addr : Addr} {lanes : List Lane} (h : addr.toNat + lanes.length ≤ s.controlBase + 2048) :
    snoop addr lanes s = s := by
  have none : ∀ offset, 2048 ≤ offset → snooped s addr lanes offset = none := fun offset _ => snooped_beyond (by omega)
  have released : ∀ l : List FeedId, l.foldl (snoopRelease addr lanes) s = s := by
    intro l
    induction l with
    | nil => rfl
    | cons f l ih =>
      rw [List.foldl_cons, snoopRelease, none _ (by simp only [Config.releaseOffset]; omega)]
      exact ih
  unfold snoop
  rw [none _ (Nat.le_refl _), none _ (by decide)]
  exact released allFeeds

theorem classify_control {s : State} {a : Addr} (h : inControl s a = true) : classify s a = .control := by
  rw [classify, if_pos h]

/-- The mode byte of a RETIRE FEED record (11.1). -/
theorem retireMode_iff (c : Command) : (c.retireMode = some .atFrameEnd ↔ c.bytes.getD 4 0 = 1)
    ∧ (c.retireMode = some .now ↔ c.bytes.getD 4 0 = 2) := by
  have byte : ∀ k : Nat, k < 256 → ((c.bytes.getD 4 0).toNat = k ↔ c.bytes.getD 4 0 = BitVec.ofNat 8 k) := fun k hk => by
    rw [← BitVec.toNat_inj, BitVec.toNat_ofNat, Nat.mod_eq_of_lt hk]
  have one := byte 1 (by omega)
  have two := byte 2 (by omega)
  unfold Command.retireMode
  split
  · rename_i mode
    exact ⟨⟨fun _ => one.mp mode, fun _ => rfl⟩, nofun, fun c => by have := two.mpr c; omega⟩
  · rename_i mode
    exact ⟨⟨nofun, fun c => by have := one.mpr c; omega⟩, fun _ => two.mp mode, fun _ => rfl⟩
  · rename_i notOne notTwo
    exact ⟨⟨nofun, fun c => absurd (one.mpr c) notOne⟩, nofun, fun c => absurd (two.mpr c) notTwo⟩

/-- Settles O7: the one place of a command slot decides what is captured, and a slot ends below every watched word. -/
theorem acceptCaptures : Obligations.AcceptCaptures := by
  unfold Obligations.AcceptCaptures
  refine ⟨fun k data r s hk length addr body room commandRoom => ?_,
    fun r s c => captureOf_eq_some_iff s r c, fun b0 b1 b2 b3 b4 more => ?_⟩
  · have captured : captureOf s r = some { bytes := data } :=
      (captureOf_eq_some_iff s r _).mpr ⟨length, body, k, hk, addr⟩
    have at_ := congrArg BitVec.toNat addr
    rw [toNat_control s (by omega)] at at_
    have rule : keepsRule r = true := by
      rw [keepsRule_iff, body, Body.length, List.length_map, length, at_]
      omega
    have control : inControl s r.addr = true := by
      rw [inControl_bounds, at_]
      omega
    rw [exec_accept_write room body (.inr commandRoom), writeActions, if_pos rule, classify_forwardQ,
      classify_control control]
    simp only [controlWrite, captureOf_forwardQ, captured]
    rw [snoop_below]
    rw [List.length_map, length, at_]
    show _ ≤ s.straps.toNat * 4294967296 + 2048
    omega
  · refine ⟨rfl, rfl, ?_, ?_, ?_⟩
    · have := b2.isLt
      have := b3.isLt
      simp [Command.serial, fieldAt, slice, leNat]
      omega
    · exact (retireMode_iff _).1
    · exact (retireMode_iff _).2

/-- Settles O6: the class decides, and the tests of the 4 KiB rule are the rule. -/
theorem acceptForwards : Obligations.AcceptForwards := by
  unfold Obligations.AcceptForwards
  refine ⟨fun r s room request => ?_, fun r s full => ?_, fun r => ?_⟩
  · obtain ⟨n, body⟩ | ⟨lanes, body, rule, cls⟩ := request
    · exact exec_accept_read room body
    · have notControl : classify s r.addr ≠ .control := by
        obtain c | c | ⟨f, c, -⟩ := cls <;> rw [c] <;> nofun
      rw [exec_accept_write room body (.inl (captureOf_of_class body notControl)), writeActions, if_pos rule,
        classify_forwardQ]
      obtain c | c | ⟨f, c, idle⟩ := cls
      · rw [c]
      · rw [c]
      · rw [c]
        simp [Feed.running, idle]
  · have refused : accepts s r = false := by
      rw [Bool.eq_false_iff, ne_eq, accepts_iff]
      rintro ⟨room, none | commandRoom⟩
      · obtain c | ⟨c, -⟩ := full
        · omega
        · rw [none] at c; cases c
      · obtain c | ⟨-, c⟩ := full <;> omega
    simp [exec, execFabricRequestAccept, refused]
  · rw [keepsRule_iff]
    constructor
    · rintro ⟨low, high, step, addr, block⟩
      exact ⟨⟨r.body.length / 32, by omega, by omega, by omega⟩, addr, block⟩
    · rintro ⟨⟨k, low, high, length⟩, addr, block⟩
      exact ⟨by omega, by omega, by omega, addr, block⟩

/-! ### Taps, misses and intrusion -/

/-- An arrival at a feed changed before. -/
theorem arrival_modFeed (f : FeedId) (stamp : Time) (s : State) (k : Feed → Feed) :
    arrival f stamp (s.modFeed f k) =
      let moved := s.setFeed f { k (s.feed f) with
        life := { (k (s.feed f)).life with lastArrival := stamp, presence := .present } }
      if (k (s.feed f)).life.presence = .absent then stageEvent (.feedRestored f stamp) moved else moved := by
  simp only [arrival_eq, State.modFeed, State.feed_setFeed_self, State.setFeed_setFeed]

/-- Settles O10: the record that holds the slot is flagged. -/
theorem intrudingWrite : Obligations.IntrudingWrite := by
  unfold Obligations.IntrudingWrite
  intro f r lanes s room body rule cls
  have notControl : classify s r.addr ≠ .control := by rw [cls]; nofun
  rw [exec_accept_write room body (.inl (captureOf_of_class body notControl)), writeActions, if_pos rule,
    classify_forwardQ, cls]
  rfl

/-- Settles O8: a tap or a miss, and then the arrival. -/
theorem ingestWrite : Obligations.IngestWrite := by
  unfold Obligations.IngestWrite
  intro f r lanes s room body rule cls running
  have notControl : classify s r.addr ≠ .control := by rw [cls]; nofun
  rw [exec_accept_write room body (.inl (captureOf_of_class body notControl)), writeActions, if_pos rule,
    classify_forwardQ, cls]
  have runs : (s.feed f).running = true := decide_eq_true running
  simp only [State.feed_forwardQ, runs, if_true]
  unfold tapWrite
  by_cases tap : (lanesWhole lanes && decide (s.tapQ.length < Config.tapCapacity)) = true
  · have tapped : (lanes.all Lane.enable && decide (s.tapQ.length < 64)) = true := tap
    simp only [tap, tapped, if_true, arrival_modFeed]
    rfl
  · have missed : (lanes.all Lane.enable && decide (s.tapQ.length < 64)) = false := eq_false_of_ne_true tap
    simp only [eq_false_of_ne_true tap, missed, Bool.false_eq_true, if_false, arrival_modFeed]
    rfl

/-! ### A control-block write -/

theorem snooped_congr {s t : State} (straps : t.straps = s.straps) : snooped t = snooped s := by
  have base : t.controlBase = s.controlBase := by rw [State.controlBase, straps, State.controlBase]
  funext addr lanes offset
  rw [snooped, base, snooped]

/-- What a notice consumer word does is decided by the notices, the insertion queue, the engine, the straps and the next
age, and it moves no other. -/
theorem noticeConsumer_congr (v : Count) {s t : State} (notices : t.notices = s.notices) (insQ : t.insQ = s.insQ)
    (engine : t.engine = s.engine) (straps : t.straps = s.straps) (nextAge : t.nextAge = s.nextAge) :
    noticeConsumer v t = { t with
      notices := (noticeConsumer v s).notices, insQ := (noticeConsumer v s).insQ,
      nextAge := (noticeConsumer v s).nextAge } := by
  unfold noticeConsumer
  rw [notices]
  split
  · rw [makeNoticeEntry_congr (s := { s with notices := { s.notices with consumed := v } })
      (t := { t with notices := { s.notices with consumed := v } }) rfl insQ engine straps nextAge, makeNoticeEntry_notices]
  · rw [← notices, ← insQ, ← nextAge]

/-- What the start test does is decided by the catalogue, the insertion queue, the engine, the time and the next age. -/
theorem startBatch_congr {s t : State} (catalogue : t.catalogue = s.catalogue) (insQ : t.insQ = s.insQ)
    (engine : t.engine = s.engine) (timeBase : t.timeBase = s.timeBase) (nextAge : t.nextAge = s.nextAge) :
    startBatch t = { t with
      catalogue := (startBatch s).catalogue, insQ := (startBatch s).insQ, nextAge := (startBatch s).nextAge } := by
  have ready : ∀ d, batchReady t d = batchReady s d := fun d => by
    simp only [batchReady, flushWaited, State.normal, catalogue, insQ, engine, timeBase]
  have made : ∀ d, (makeEntry d t).insQ = (makeEntry d s).insQ ∧ (makeEntry d t).nextAge = (makeEntry d s).nextAge
      ∧ makeEntry d t = { t with insQ := (makeEntry d t).insQ, nextAge := (makeEntry d t).nextAge } := fun d => by
    have normal : t.normal = s.normal := by rw [State.normal, engine, State.normal]
    unfold makeEntry
    rw [normal, insQ]
    split
    · exact ⟨by rw [nextAge], by rw [nextAge], rfl⟩
    · exact ⟨insQ, nextAge, rfl⟩
  unfold startBatch
  rw [catalogue]
  split
  · rw [← catalogue, ← insQ, ← nextAge]
  · rename_i d _
    rw [ready d]
    split
    · obtain ⟨queue, age, same⟩ := made (batchDraft s.catalogue d (batchSize s.catalogue d))
      simp only [makeBatch, makeEntry_catalogue, catalogue, ← queue, ← age]
      exact congrArg (fun u : State => { u with catalogue := { s.catalogue with
        batch := some { first := s.catalogue.produced.toNat % d.entries, size := batchSize s.catalogue d } } }) same
    · rw [← catalogue, ← insQ, ← nextAge]

/-- What a catalogue consumer word does is decided by the catalogue, the insertion queue, the engine, the time and the
next age. -/
theorem catalogueConsumer_congr (v : Count) {s t : State} (catalogue : t.catalogue = s.catalogue)
    (insQ : t.insQ = s.insQ) (engine : t.engine = s.engine) (timeBase : t.timeBase = s.timeBase)
    (nextAge : t.nextAge = s.nextAge) :
    catalogueConsumer v t = { t with
      catalogue := (catalogueConsumer v s).catalogue, insQ := (catalogueConsumer v s).insQ,
      nextAge := (catalogueConsumer v s).nextAge } := by
  unfold catalogueConsumer
  rw [catalogue]
  split
  · rw [startBatch_congr (s := { s with catalogue := { s.catalogue with consumed := v } })
      (t := { t with catalogue := { s.catalogue with consumed := v } }) rfl insQ engine timeBase nextAge]
  · rw [← catalogue, ← insQ, ← nextAge]

/-- The consumer words of a write, where it gives them values, taken by a state that agrees with `s`. -/
theorem withValue_noticeConsumer (o : Option Count) {s t : State} (notices : t.notices = s.notices)
    (insQ : t.insQ = s.insQ) (engine : t.engine = s.engine) (straps : t.straps = s.straps)
    (nextAge : t.nextAge = s.nextAge) : withValue o noticeConsumer t = { t with
      notices := (withValue o noticeConsumer s).notices, insQ := (withValue o noticeConsumer s).insQ,
      nextAge := (withValue o noticeConsumer s).nextAge } := by
  cases o with
  | none => simp only [withValue, ← notices, ← insQ, ← nextAge]
  | some v => exact noticeConsumer_congr v notices insQ engine straps nextAge

theorem withValue_catalogueConsumer (o : Option Count) {s t : State} (catalogue : t.catalogue = s.catalogue)
    (insQ : t.insQ = s.insQ) (engine : t.engine = s.engine) (timeBase : t.timeBase = s.timeBase)
    (nextAge : t.nextAge = s.nextAge) : withValue o catalogueConsumer t = { t with
      catalogue := (withValue o catalogueConsumer s).catalogue, insQ := (withValue o catalogueConsumer s).insQ,
      nextAge := (withValue o catalogueConsumer s).nextAge } := by
  cases o with
  | none => simp only [withValue, ← catalogue, ← insQ, ← nextAge]
  | some v => exact catalogueConsumer_congr v catalogue insQ engine timeBase nextAge

theorem mem_allFeeds (f : FeedId) : f ∈ allFeeds := List.mem_finRange f

/-- A feed after its release word was taken, where the write gives it a value (R85). -/
def releasedBy (v : Option Count) (x : Feed) : Feed :=
  match v with
  | some c => releaseValue c x
  | none => x

theorem snoopRelease_eq (addr : Addr) (lanes : List Lane) (s : State) (f : FeedId) : snoopRelease addr lanes s f =
    s.setFeed f (releasedBy (snooped s addr lanes (0x0840 + 4 * f.val)) (s.feed f)) := by
  unfold snoopRelease
  show withValue (snooped s addr lanes (0x0840 + 4 * f.val)) _ s = _
  cases snooped s addr lanes (0x0840 + 4 * f.val) with
  | none => exact (State.setFeed_self s f).symm
  | some v => rfl

/-- The release words taken one after another change their feeds alone. -/
theorem foldl_snoopRelease (addr : Addr) (lanes : List Lane) (l : List FeedId) (once : l.Nodup) (s : State) :
    (∃ feeds, l.foldl (snoopRelease addr lanes) s = { s with feeds := feeds })
      ∧ ∀ g, (l.foldl (snoopRelease addr lanes) s).feed g =
          if g ∈ l then releasedBy (snooped s addr lanes (0x0840 + 4 * g.val)) (s.feed g) else s.feed g := by
  induction l generalizing s with
  | nil => exact ⟨⟨_, rfl⟩, fun g => (if_neg List.not_mem_nil).symm⟩
  | cons f l ih =>
    obtain ⟨fresh, once⟩ := List.nodup_cons.mp once
    rw [List.foldl_cons, snoopRelease_eq]
    obtain ⟨⟨feeds, eq⟩, each⟩ := ih once (s.setFeed f (releasedBy (snooped s addr lanes (0x0840 + 4 * f.val)) (s.feed f)))
    refine ⟨⟨feeds, eq⟩, fun g => ?_⟩
    rw [each g, State.feed_setFeed, snooped_congr (State.setFeed_straps s f _)]
    by_cases same : g = f
    · subst same
      simp [fresh]
    · simp [same]

theorem snooped_eq_some_iff (s : State) (addr : Addr) (lanes : List Lane) (offset : Nat) (v : Count) :
    snooped s addr lanes offset = some v ↔ addr.toNat ≤ s.controlBase + offset ∧ ∃ a b c d : Byte,
      (lanes.drop (s.controlBase + offset - addr.toNat)).take 4 = [⟨a, true⟩, ⟨b, true⟩, ⟨c, true⟩, ⟨d, true⟩]
        ∧ v.toNat = a.toNat + 256 * b.toNat + 65536 * c.toNat + 16777216 * d.toNat := by
  have value : ∀ a b c d : Byte, (BitVec.ofNat 32 (leNat [a, b, c, d])).toNat
      = a.toNat + 256 * b.toNat + 65536 * c.toNat + 16777216 * d.toNat := fun a b c d => by
    have := a.isLt
    have := b.isLt
    have := c.isLt
    have := d.isLt
    simp only [leNat, BitVec.toNat_ofNat]
    omega
  unfold snooped
  dsimp only
  split
  · rename_i before
    rw [and_iff_right before, coveredWord]
    generalize (lanes.drop (s.controlBase + offset - addr.toNat)).take 4 = word
    constructor
    · intro taken
      split at taken
      · rename_i tests
        cases taken
        simp only [Bool.and_eq_true, decide_eq_true_eq] at tests
        obtain ⟨length, whole⟩ := tests
        obtain ⟨a, b, c, d, data⟩ := List.length_eq_four.mp (by rwa [List.length_map] : (word.map Lane.data).length = 4)
        refine ⟨a, b, c, d, ?_, by rw [data, value]⟩
        rw [← lanes_of_whole whole, data]
        rfl
      · cases taken
    · rintro ⟨a, b, c, d, rfl, value'⟩
      rw [if_pos (by rfl)]
      exact congrArg some (BitVec.eq_of_toNat_eq ((value a b c d).trans value'.symm))
  · rename_i beyond
    exact ⟨nofun, fun h => absurd h.1 beyond⟩

/-- Settles O11: the two consumer words move their owners, and each release word its feed. -/
theorem controlWriteSnooped : Obligations.ControlWriteSnooped := by
  unfold Obligations.ControlWriteSnooped
  intro r lanes s room body rule control capture
  refine ⟨?_, fun offset v => snooped_eq_some_iff s r.addr lanes offset v⟩
  rw [exec_accept_write room body (.inl capture), writeActions, if_pos rule, classify_forwardQ, classify_control control]
  simp only [controlWrite, captureOf_forwardQ, capture]
  obtain ⟨q, hq⟩ : ∃ q : State, q = { s with forwardQ := s.forwardQ ++ [r] } := ⟨_, rfl⟩
  obtain ⟨n, hn⟩ : ∃ n, n = withValue (snooped s r.addr lanes 0x0800) noticeConsumer s := ⟨_, rfl⟩
  obtain ⟨c, hc⟩ : ∃ c, c = withValue (snooped s r.addr lanes 0x0804) catalogueConsumer n := ⟨_, rfl⟩
  have own : n = { s with notices := n.notices, insQ := n.insQ, nextAge := n.nextAge } :=
    hn ▸ withValue_noticeConsumer _ rfl rfl rfl rfl rfl
  have kept : c = { n with catalogue := c.catalogue, insQ := c.insQ, nextAge := c.nextAge } :=
    hc ▸ withValue_catalogueConsumer _ rfl rfl rfl rfl rfl
  have noticed : withValue (snooped s r.addr lanes 0x0800) noticeConsumer q
      = { q with notices := n.notices, insQ := n.insQ, nextAge := n.nextAge } := by
    rw [hn]
    exact withValue_noticeConsumer _ (by rw [hq]) (by rw [hq]) (by rw [hq]) (by rw [hq]) (by rw [hq])
  have told : withValue (snooped s r.addr lanes 0x0804) catalogueConsumer
      { q with notices := n.notices, insQ := n.insQ, nextAge := n.nextAge }
      = { q with notices := c.notices, insQ := c.insQ, nextAge := c.nextAge, catalogue := c.catalogue } := by
    have notices := congrArg State.notices kept
    rw [notices, hc]
    exact withValue_catalogueConsumer _ (by rw [hq]; exact (congrArg State.catalogue own).symm) rfl
      (by rw [hq]; exact (congrArg State.engine own).symm) (by rw [hq]; exact (congrArg State.timeBase own).symm) rfl
  have snooped_q : snooped q = snooped s := snooped_congr (by rw [hq])
  obtain ⟨⟨feeds, eq⟩, each⟩ := foldl_snoopRelease r.addr lanes allFeeds (List.nodup_finRange 16)
    { q with notices := c.notices, insQ := c.insQ, nextAge := c.nextAge, catalogue := c.catalogue }
  have whole : snoop r.addr lanes q = allFeeds.foldl (snoopRelease r.addr lanes)
      { q with notices := c.notices, insQ := c.insQ, nextAge := c.nextAge, catalogue := c.catalogue } := by
    rw [snoop, snooped_q, ← told, ← noticed]
  rw [← hq, whole]
  refine ⟨_, rfl, ?_, fun f => ?_⟩
  · rw [eq, hc, hn, hq]
    rfl
  · rw [each, if_pos (mem_allFeeds f), snooped_congr (s := s) (by rw [hq])]
    have feed : q.feed f = s.feed f := by rw [hq]; rfl
    exact congrArg (releasedBy _) feed

/-! ### A write that breaks the 4 KiB rule -/

/-- A feed a write of a range is a miss and an arrival for (R132, R146). -/
def missedBy (addr length : Nat) (x : Feed) : Bool :=
  decide (x.parse.state ≠ .idle) && x.ingest.any fun w => rangesShare w.base.toNat w.size addr length

/-- A feed after a miss that arrived at `stamp` (R115, R146). -/
def missedFeed (stamp : Time) (x : Feed) : Feed :=
  { x with
    missPending := true,
    life := { x.life with
      lastArrival := stamp, presence := .present,
      counters := { x.life.counters with tapMisses := min 4294967295 (x.life.counters.tapMisses + 1) } } }

theorem brokenWrite_eq (addr length : Nat) (s : State) (f : FeedId) : brokenWrite addr length s f =
    if missedBy addr length (s.feed f) then
      if (s.feed f).life.presence = .absent then
        stageEvent (.feedRestored f s.timeBase) (s.setFeed f (missedFeed s.timeBase (s.feed f)))
      else s.setFeed f (missedFeed s.timeBase (s.feed f))
    else s := by
  unfold brokenWrite missedBy
  rw [arrival_modFeed]
  rfl

/-- The states two runs of notices are told from: alike in what staging a notice reads. -/
structure ToldAlike (s t : State) : Prop where
  notices : t.notices = s.notices
  insQ : t.insQ = s.insQ
  nextAge : t.nextAge = s.nextAge
  engine : t.engine = s.engine
  straps : t.straps = s.straps
  timeBase : t.timeBase = s.timeBase

theorem ToldAlike.stageEvent {s t : State} (h : ToldAlike s t) (body : NoticeBody) :
    ToldAlike (stageEvent body s) (stageEvent body t) := by
  rw [stageEvent_congr body h.notices h.insQ h.engine h.straps h.nextAge h.timeBase]
  exact ⟨rfl, rfl, rfl, by simp [h.engine], by simp [h.straps], by simp [h.timeBase]⟩

/-- The misses of a broken write, feed by feed, change each feed that it meets and stage the notices of the ABSENT ones. -/
theorem foldl_brokenWrite (addr length : Nat) (l : List FeedId) (once : l.Nodup) (feed : FeedId → Feed) (s t : State)
    (alike : ToldAlike s t) (feeds : ∀ f ∈ l, t.feed f = feed f) :
    ToldAlike ((l.filter fun f => missedBy addr length (feed f) && decide ((feed f).life.presence = .absent)).foldl
        (fun u f => stageEvent (.feedRestored f s.timeBase) u) s) (l.foldl (brokenWrite addr length) t)
      ∧ (∃ n q a k, l.foldl (brokenWrite addr length) t = { t with notices := n, insQ := q, nextAge := a, feeds := k })
      ∧ ∀ g, (l.foldl (brokenWrite addr length) t).feed g =
          if g ∈ l ∧ missedBy addr length (feed g) = true then missedFeed s.timeBase (feed g) else t.feed g := by
  induction l generalizing s t with
  | nil => exact ⟨alike, ⟨_, _, _, _, rfl⟩, fun g => by simp⟩
  | cons f l ih =>
    obtain ⟨fresh, once⟩ := List.nodup_cons.mp once
    have here := feeds f (List.mem_cons_self ..)
    have alike' : ∀ x, ToldAlike s (t.setFeed f x) := fun x => { alike with }
    have rest : ∀ s' t' : State, ToldAlike s' t' → s'.timeBase = s.timeBase →
        (∃ n q a k, t' = { t with notices := n, insQ := q, nextAge := a, feeds := k }) →
        (∀ g, t'.feed g = if g = f ∧ missedBy addr length (feed g) = true then missedFeed s.timeBase (feed g)
          else t.feed g) →
        ToldAlike ((l.filter fun f => missedBy addr length (feed f) && decide ((feed f).life.presence = .absent)).foldl
            (fun u f => stageEvent (.feedRestored f s.timeBase) u) s') (l.foldl (brokenWrite addr length) t')
          ∧ (∃ n q a k, l.foldl (brokenWrite addr length) t' = { t with notices := n, insQ := q, nextAge := a, feeds := k })
          ∧ ∀ g, (l.foldl (brokenWrite addr length) t').feed g =
              if g ∈ f :: l ∧ missedBy addr length (feed g) = true then missedFeed s.timeBase (feed g)
              else t.feed g := by
      intro s' t' alike time ⟨n, q, a, k, eq⟩ moved
      obtain ⟨told, ⟨n', q', a', k', eq'⟩, each⟩ := ih once s' t' alike fun g hg => by
        have apart : ¬ (g = f ∧ missedBy addr length (feed g) = true) := fun c => fresh (c.1 ▸ hg)
        rw [moved g, if_neg apart, feeds g (List.mem_cons_of_mem _ hg)]
      rw [time] at told each
      refine ⟨told, ⟨n', q', a', k', by rw [eq', eq]⟩, fun g => ?_⟩
      rw [each g, moved g]
      by_cases same : g = f
      · subst same
        simp [fresh]
      · simp [same]
    have set_feed : ∀ g, (t.setFeed f (missedFeed s.timeBase (feed f))).feed g =
        if g = f then missedFeed s.timeBase (feed g) else t.feed g := fun g => by
      rw [State.feed_setFeed]
      split
      · rename_i same; rw [same]
      · rfl
    have first := brokenWrite_eq addr length t f
    rw [here, alike.timeBase] at first
    rw [List.foldl_cons, first]
    by_cases missed : missedBy addr length (feed f) = true
    · have moved : ∀ g, (t.setFeed f (missedFeed s.timeBase (feed f))).feed g =
          if g = f ∧ missedBy addr length (feed g) = true then missedFeed s.timeBase (feed g) else t.feed g := fun g => by
        rw [set_feed]
        by_cases same : g = f
        · rw [if_pos same, if_pos ⟨same, same ▸ missed⟩]
        · rw [if_neg same, if_neg fun c => same c.1]
      rw [if_pos missed]
      by_cases absent : (feed f).life.presence = .absent
      · rw [if_pos absent, List.filter_cons_of_pos (by simp [missed, absent]), List.foldl_cons]
        refine rest _ _ ((alike' _).stageEvent _) (stageEvent_timeBase _ _) ?_ fun g => ?_
        · rw [stageEvent_eq]
          exact ⟨_, _, _, _, rfl⟩
        · rw [State.feed_congr (stageEvent_feeds _ _), moved]
      · rw [if_neg absent, List.filter_cons_of_neg (by simp [absent])]
        exact rest _ _ (alike' _) rfl ⟨_, _, _, _, rfl⟩ moved
    · rw [if_neg missed, List.filter_cons_of_neg (by simp [missed])]
      refine rest _ _ alike rfl ⟨_, _, _, _, rfl⟩ fun g => ?_
      rw [if_neg]
      rintro ⟨rfl, c⟩
      exact missed c

/-- Settles O9: the misses, feed by feed. -/
theorem Settled.brokenWrite : Obligations.BrokenWrite := by
  unfold Obligations.BrokenWrite
  intro r lanes s room body rule
  rw [exec_accept_write room body (.inl (captureOf_of_broken body rule)), writeActions, if_neg (by rw [rule]; nofun)]
  obtain ⟨alike, ⟨n, q, a, k, eq⟩, each⟩ := foldl_brokenWrite r.addr.toNat lanes.length allFeeds (List.nodup_finRange 16)
    s.feed s { s with forwardQ := s.forwardQ ++ [r] } ⟨rfl, rfl, rfl, rfl, rfl, rfl⟩ fun _ _ => rfl
  refine ⟨_, rfl, ?_, fun f => ?_⟩
  · have notices := alike.notices
    have insQ := alike.insQ
    have nextAge := alike.nextAge
    rw [eq] at notices insQ nextAge ⊢
    dsimp only at notices insQ nextAge
    rw [notices, insQ, nextAge]
    rfl
  · rw [each]
    simp only [mem_allFeeds, true_and]
    rfl

end Sys2Proof.Machine
end

section
/-! The arbiter's grants and refusals, an entry's issue and retry, and what the row store does at an answer (chapters 4.1,
7.3, 8.1 to 8.6). -/

namespace Sys2Proof.Machine

/-! ### Consumer words -/

/-- Settles O13: each consumer word by its window test. -/
theorem consumerTests : Obligations.ConsumerTests := by
  unfold Obligations.ConsumerTests
  intro v s
  refine ⟨fun within => ?_, fun beyond => ?_, fun ⟨defined, within⟩ => ?_, fun refused => ?_⟩
  · have taken := (countTaken_iff v _ _).mpr within
    have tested : noticeConsumer v s = makeNoticeEntry { s with notices := { s.notices with consumed := v } } := by
      rw [noticeConsumer, if_pos taken]
    refine ⟨by rw [tested, makeNoticeEntry_eq], by rw [tested, makeNoticeEntry_notices], ?_⟩
    rw [tested, State.attention, makeNoticeEntry_notices, decide_eq_true_eq]
  · rw [noticeConsumer, if_neg fun taken => beyond ((countTaken_iff v _ _).mp taken)]
  · have taken : (s.catalogue.defn.isSome && countTaken v s.catalogue.consumed s.catalogue.produced) = true := by
      rw [Bool.and_eq_true]
      exact ⟨Option.isSome_iff_ne_none.mpr defined, (countTaken_iff v _ _).mpr within⟩
    rw [catalogueConsumer, if_pos taken]
    refine ⟨rfl, ?_⟩
    obtain same | ⟨d, -, -, eq⟩ := startBatch_cases { s with catalogue := { s.catalogue with consumed := v } }
    · rw [same]
    · rw [eq]
  · rw [catalogueConsumer, if_neg]
    rw [Bool.and_eq_true, Option.isSome_iff_ne_none, countTaken_iff]
    exact refused

/-! ### The arbiter -/

/-- A request is held where a QUEUED entry shares a byte with it (R137). -/
theorem held_iff (q : List InsEntry) (r : FabricRequest) : held q r = true ↔ ∃ e ∈ q, e.state = .queued
    ∧ rangesMeet r.addr.toNat r.body.length e.addr.toNat e.length := by
  simp only [held, List.any_eq_true, Bool.and_eq_true, InsEntry.queued, decide_eq_true_eq, rangesShare_iff]

theorem forwardCandidate_cons {s : State} {r : FabricRequest} {rest : List FabricRequest} (h : s.forwardQ = r :: rest) :
    forwardCandidate s = if held s.insQ r then none else some r := by
  rw [forwardCandidate, h]

theorem someQueued_iff (q : List InsEntry) : someQueued q = true ↔ ∃ e ∈ q, e.state = .queued := by
  simp only [someQueued, List.any_eq_true, InsEntry.queued, decide_eq_true_eq]

/-- A forward issue without a candidate, a FREE tag or the grant changes nothing (R138). -/
theorem exec_forwardIssue_refused {s : State}
    (h : forwardCandidate s = none ∨ lowestFree s.tags = none ∨ grantsForward s = false) :
    exec .forwardIssue s = .next s := by
  simp only [exec, execForwardIssue]
  obtain h | h | h := h
  · rw [h]
  · rw [h]
    split <;> simp_all
  · rw [h]
    split <;> rfl

/-- An insertion issue without a candidate, a FREE tag or the grant changes nothing (R161). -/
theorem exec_insertionIssue_refused {s : State}
    (h : insertionCandidate s = none ∨ lowestFree s.tags = none ∨ grantsInsertion s = false) :
    exec .insertionIssue s = .next s := by
  simp only [exec, execInsertionIssue]
  obtain h | h | h := h
  · rw [h]
  · rw [h]
    split <;> simp_all
  · rw [h]
    split <;> rfl

/-- Settles O14: the head no entry holds is the candidate, and it is granted. -/
theorem forwardIssue : Obligations.ForwardIssue := by
  unfold Obligations.ForwardIssue
  intro s r rest t queue clear lowest credit
  have candidate : forwardCandidate s = some r := by
    rw [forwardCandidate_cons queue, if_neg]
    rw [held_iff]
    rintro ⟨e, he, queued, meets⟩
    have := (rangesShare_iff _ _ _ _).mpr meets
    rw [clear e he queued] at this
    cases this
  have grant : grantsForward s = true := by
    rw [grantsForward, candidate, Option.isSome_some, Bool.true_and, Bool.or_eq_true]
    obtain none | credit := credit
    · refine .inl ?_
      rw [Bool.not_eq_true', Bool.eq_false_iff, ne_eq, someQueued_iff]
      rintro ⟨e, he, queued⟩
      exact none e he queued
    · exact .inr (decide_eq_true credit)
  simp only [exec, execForwardIssue, candidate, lowestFree_of_lowestTag lowest, grant, if_true, issueForward, queue,
    List.tail_cons]
  rfl

/-- Settles O15: a refusal fails a condition of its grant. -/
theorem noIssueUnderHold : Obligations.NoIssueUnderHold := by
  unfold Obligations.NoIssueUnderHold
  refine ⟨fun s refused => exec_forwardIssue_refused ?_, fun s refused => exec_insertionIssue_refused ?_, rangesShare_iff⟩
  · obtain ⟨r, rest, e, queue, he, queued, meets⟩ | empty | busy | ⟨credit, e, he, queued⟩ := refused
    · exact .inl (by rw [forwardCandidate_cons queue, if_pos ((held_iff _ _).mpr ⟨e, he, queued, meets⟩)])
    · exact .inl (by rw [forwardCandidate, empty])
    · exact .inr (.inl (lowestFree_eq_none busy))
    · refine .inr (.inr ?_)
      rw [grantsForward, (someQueued_iff _).mpr ⟨e, he, queued⟩, credit]
      simp
  · obtain none | busy | ⟨credit, r, rest, queue, clear⟩ := refused
    · refine .inl (List.findSome?_eq_none_iff.mpr fun k _ => List.find?_eq_none.mpr fun e he => ?_)
      simp [InsEntry.queued, none e he]
    · exact .inr (.inl (lowestFree_eq_none busy))
    · refine .inr (.inr ?_)
      have candidate : forwardCandidate s = some r := by
        rw [forwardCandidate_cons queue, if_neg]
        rw [held_iff]
        rintro ⟨e, he, queued, meets⟩
        exact clear e he queued meets
      have below : decide (s.credit = Config.creditLimit) = false := decide_eq_false (Nat.ne_of_lt credit)
      rw [grantsInsertion, candidate, below]
      simp

/-! ### Telling a source -/

/-- An entry whose source keeps no state of it (R161). -/
abbrev EntryKind.plain (k : EntryKind) : Prop := k = .header ∨ k = .batch ∨ k = .notice ∨ k = .statusRecord

theorem tellSource_plain {e : InsEntry} (h : e.kind.plain) (part : PartState) (word : WordState) (s : State) :
    tellSource part word e s = s := by
  unfold tellSource
  obtain h | h | h | h := h <;> rw [h]

theorem tellSource_word {e : InsEntry} {w : WordId} (h : e.word = some w) (part : PartState) (word : WordState) (s : State) :
    tellSource part word e s = setWord w word s := by
  unfold tellSource
  obtain ⟨f, rfl, kind, source⟩ | ⟨rfl, kind⟩ | ⟨rfl, kind⟩ := InsEntry.word_cases h
  · rw [kind, source]
  · rw [kind]
  · rw [kind]

theorem tellSource_row {e : InsEntry} {f : FeedId} {ref : RowRef} (kind : e.kind = .row) (source : e.source = .feed f)
    (row : e.row = some ref) (part : PartState) (word : WordState) (s : State) :
    tellSource part word e s = s.modFeed f fun x => { x with rows := x.rows.markPart ref part } := by
  simp only [tellSource, kind, source, row]

theorem retryData_plain {e : InsEntry} (h : e.word = none) (s : State) : retryData s e = e.data := by
  rw [retryData, h]

theorem word_of_plain {e : InsEntry} (h : e.kind.plain) : e.word = none := by
  unfold InsEntry.word
  obtain h | h | h | h := h <;> rw [h]

theorem word_of_row {e : InsEntry} (h : e.kind = .row) : e.word = none := by
  unfold InsEntry.word
  rw [h]

/-! ### Issue and retry -/

/-- The four bytes of a count (R155). -/
theorem leBytes_word (v : Nat) : leBytes 4 v = [BitVec.ofNat 8 v, BitVec.ofNat 8 (v / 256), BitVec.ofNat 8 (v / 65536),
    BitVec.ofNat 8 (v / 16777216)] := by
  simp only [leBytes, Nat.div_div_eq_div_mul]

/-- Settles O17: the entry of the lowest rank and age is the candidate, and it is granted. -/
theorem insertionIssue : Obligations.InsertionIssue := by
  unfold Obligations.InsertionIssue
  intro s e t ages mem queued rank first lowest grant bytes lanes u
  have candidate : insertionCandidate s = some e := insertionCandidate_eq ages mem queued first
  have granted : grantsInsertion s = true := by
    rw [grantsInsertion, candidate, Option.isSome_some, Bool.true_and, Bool.or_eq_true]
    obtain held | credit := grant
    · refine .inl ?_
      rw [forwardCandidate]
      split
      · rfl
      · rename_i r rest queue
        rw [if_pos ((held_iff _ _).mpr (held r rest queue))]
        rfl
    · exact .inr (decide_eq_true credit)
  have bytes_eq : entryBytes s e = bytes := by
    dsimp only [bytes]
    unfold entryBytes
    cases e.data with
    | fixed given => rfl
    | word v => exact leBytes_word v.toNat
    | buffer b offset => cases e.source <;> rfl
  have lanes_eq : entryLanes s e = lanes := by
    cases given : e.lanes <;> simp only [entryLanes, lanes, given, bytes_eq]
  have issued : exec .insertionIssue s = .next (tellSource .issued .issued e u) := by
    simp only [exec, execInsertionIssue, candidate, lowestFree_of_lowestTag lowest, granted, if_true, issueEntry, lanes_eq]
    rfl
  rw [issued]
  refine ⟨fun plain => ?_, fun w word => ?_, fun f ref kind source row => ?_⟩
  · rw [tellSource_plain plain]
  · rw [tellSource_word word]
  · rw [tellSource_row kind source row]

/-- The state after an ERROR below the fourth attempt (R163). -/
theorem answerEntry_retry {e : InsEntry} {s : State} (normal : s.engine = .normal) (attempts : e.attempt < 4) :
    answerEntry e .error s = retryEntry e s := by
  have : s.normal = true := decide_eq_true normal
  rw [answerEntry, if_pos this]
  exact if_pos attempts

/-- Settles O18: the retry, and what its source is told. -/
theorem errorRetries : Obligations.ErrorRetries := by
  unfold Obligations.ErrorRetries
  intro s e t flight normal attempts back
  have retried : exec (.insertionAnswer t .error) s
      = .next (tellSource .queued .queued e (back (retryData (s.setTag t .free) e))) := by
    rw [execInsertionAnswer_eq .error flight, answerEntry_retry (s := s.setTag t .free) normal attempts]
    rfl
  rw [retried]
  refine ⟨fun plain => ?_, fun w word => ?_, fun f ref kind source row => ?_⟩
  · rw [tellSource_plain plain, retryData_plain (word_of_plain plain)]
  · rw [tellSource_word word, retryData, word]
    cases w <;> rfl
  · rw [tellSource_row kind source row, retryData_plain (word_of_row kind)]

/-! ### Items that leave the row store -/

/-- A sweep after a change of every item, which moves no item's buffer: the items that have then ended leave (R69). -/
theorem sweep_leaves (r : RowStore) {g : RowItem → RowItem} (kept : ∀ i, (g i).buffer = i.buffer) :
    r.leaves (fun i => (g i).ended) g (RowStore.sweep { r with items := r.items.map g }) := by
  have count : ∀ b : BufferId, (((r.items.map g).filter RowItem.ended).countP fun i => decide (i.buffer = b))
      = r.items.countP fun i => (g i).ended && decide (i.buffer = b) := fun b => by
    rw [List.countP_filter, List.countP_map]
    exact List.countP_congr fun i _ => by simp [kept, and_comm]
  refine ⟨List.filter_map, fun b => ?_⟩
  cases b
  · exact ⟨rfl, congrArg (r.buffer0.useCount - ·) (count .zero)⟩
  · exact ⟨rfl, congrArg (r.buffer1.useCount - ·) (count .one)⟩

/-- Two ways to say which items leave, and what becomes of those that stay. -/
theorem leaves_congr {r r' : RowStore} {gone gone' : RowItem → Bool} {g g' : RowItem → RowItem}
    (same : ∀ i, gone' i = gone i) (kept : ∀ i, gone i = false → g' i = g i) (h : r.leaves gone g r') :
    r.leaves gone' g' r' := by
  obtain rfl : gone' = gone := funext same
  refine ⟨?_, h.2⟩
  rw [h.1]
  refine List.map_congr_left fun i hi => (kept i ?_).symm
  simpa using (List.mem_filter.mp hi).2

/-- A part answered, and the items that ended gone (R72, R75). -/
theorem answer_answers (ref : RowRef) (r : RowStore) : r.answers ref (r.markPart ref .answered).sweep := by
  refine leaves_congr (g := fun i => if ref.names i then i.setPart ref.part .answered else i) (fun i => ?_) (fun i _ => ?_)
    (sweep_leaves r fun i => by split <;> rfl)
  · unfold RowItem.answeredAt RowRef.names
    by_cases here : i.ident = ref.item <;> simp [here, RowItem.ended, RowItem.setPart]
  · unfold RowItem.answeredAt RowRef.names
    by_cases here : i.ident = ref.item <;> simp [here, RowItem.setPart]

/-! ### Answers after a failure, and on ORPHANED tags -/

/-- Settles O21: the entry leaves, and its source hears of it without a retry. -/
theorem answerInFailedEngine : Obligations.AnswerInFailedEngine := by
  unfold Obligations.AnswerInFailedEngine
  intro s e t status flight failed
  have answered : exec (.insertionAnswer t status) s = .next (answerFailed e (s.freed e t)) := by
    have : State.normal (s.setTag t .free) = false := decide_eq_false (by rw [State.setTag_engine, failed]; nofun)
    rw [execInsertionAnswer_eq status flight]
    simp only [answerEntry, this, Bool.false_eq_true, if_false, dropEntry_setTag]
  rw [answered]
  refine ⟨fun plain => ?_, fun kind => ?_, fun w word => ?_, fun f ref kind source row => ?_⟩
  · unfold answerFailed
    obtain kind | kind | kind := plain <;> rw [kind]
  · unfold answerFailed
    rw [kind]
    rfl
  · unfold answerFailed
    obtain ⟨f, rfl, kind, source⟩ | ⟨rfl, kind⟩ | ⟨rfl, kind⟩ := InsEntry.word_cases word
    · rw [kind, source]
    · rw [kind]
    · rw [kind]
  · refine ⟨_, answer_answers ref _, ?_⟩
    simp only [answerFailed, kind, source, row]
    rfl

/-- Settles O27: the tag is freed, and a row part's answer goes to the row store. -/
theorem orphanedAnswer : Obligations.OrphanedAnswer := by
  unfold Obligations.OrphanedAnswer
  intro t status s
  refine ⟨fun free => ?_, fun i orphaned => ?_⟩
  · simp only [exec, execOrphanedAnswer, free]
  · have answered : exec (.orphanedAnswer t status) s = .next (orphanAnswered i status (s.setTag t .free)) := by
      simp only [exec, execOrphanedAnswer, orphaned]
    rw [answered]
    refine ⟨fun kind => ?_, fun f ref kind source row => ⟨fun absent => ?_, fun present => ?_⟩⟩
    · unfold orphanAnswered
      split
      · rename_i rowKind _ _
        exact absurd rowKind kind
      · rfl
    · have none : (s.feed f).rows.items.any ref.names = false := by
        simpa [RowRef.names] using absent
      have same : orphanedRow ref status (s.feed f) = s.feed f := by rw [orphanedRow, none]; rfl
      simp only [orphanAnswered, kind, source, row, State.modFeed, State.setTag_feed, same]
      exact congrArg Host.Outcome.next (State.setFeed_self (s.setTag t .free) f)
    · have some : (s.feed f).rows.items.any ref.names = true := by
        simpa [RowRef.names] using present
      refine ⟨_, answer_answers ref _, ?_⟩
      simp only [orphanAnswered, kind, source, row, State.modFeed, State.setTag_feed, orphanedRow, some, if_true]
      cases status <;> rfl

end Sys2Proof.Machine
end

section
/-! The layouts of the records, the coalescing of the words, and the two rings' entries (chapters 5.3 to 5.5, 8.1, 9.4,
11.2). -/

namespace Sys2Proof.Machine

/-! ### Layouts -/

/-- A record laid out as fields one after another, each a width in bytes and a value. -/
def layout (l : List (Nat × Nat)) : List Byte := l.flatMap fun q => leBytes q.1 q.2

/-- The fields of a layout that begins at an offset: each its offset, its width and its value. -/
def fieldsFrom (offset : Nat) : List (Nat × Nat) → List (Nat × Nat × Nat)
  | [] => []
  | q :: rest => (offset, q.1, q.2) :: fieldsFrom (offset + q.1) rest

/-- A field of a layout is where the widths before it put it. -/
theorem fieldAt_layout (before : List Byte) (l : List (Nat × Nat)) :
    ∀ q ∈ fieldsFrom before.length l, fieldAt (before ++ layout l) q.1 q.2.1 = q.2.2 % 256 ^ q.2.1 := by
  induction l generalizing before with
  | nil => nofun
  | cons p l ih =>
    have split : before ++ layout (p :: l) = (before ++ leBytes p.1 p.2) ++ layout l := by
      rw [layout, List.flatMap_cons, List.append_assoc]
      rfl
    intro q hq
    obtain rfl | hq := List.mem_cons.mp hq
    · have skip := fieldAt_skip (a := before) (leBytes p.1 p.2 ++ layout l) p.1 (Nat.le_refl _)
      have first := fieldAt_first (leBytes p.1 p.2) (layout l)
      rw [Nat.sub_self] at skip
      rw [leBytes_length] at first
      rw [split, List.append_assoc]
      exact skip.trans (first.trans (leNat_leBytes _ _))
    · have := ih (before ++ leBytes p.1 p.2)
      rw [List.length_append, leBytes_length] at this
      rw [split]
      exact this q hq

theorem length_layout (l : List (Nat × Nat)) : (layout l).length = (l.map Prod.fst).sum := by
  rw [layout, List.length_flatMap]
  simp only [leBytes_length]

/-- A record that is a layout holds fields of the layout. -/
theorem recordHolds_layout {record : List Byte} {size : Nat} {fields : List (Nat × Nat × Nat)} (l : List (Nat × Nat))
    (eq : record = layout l) (length : (l.map Prod.fst).sum = size) (sub : ∀ q ∈ fields, q ∈ fieldsFrom 0 l) :
    recordHolds record size fields := by
  subst eq
  exact ⟨by rw [length_layout, length], fun q hq => fieldAt_layout [] l q (sub q hq)⟩

theorem leBytes_one (v : Nat) : leBytes 1 v = [BitVec.ofNat 8 v] := rfl

theorem leBytes_zero_value (n : Nat) : leBytes n 0 = zeros n := by
  induction n with
  | zero => rfl
  | succ n ih => rw [leBytes, Nat.zero_div, ih]; rfl

theorem ofNat_toNat_byte (b : Byte) : BitVec.ofNat 8 b.toNat = b := by simp

/-- The code of a browse reason, as a number (11.2). -/
def reasonCode : BrowseReason → Nat
  | .none => 0
  | .suspended => 1
  | .geometry => 2
  | .slotSize => 3
  | .ringFull => 4
  | .abandoned => 5

theorem reason_code (r : BrowseReason) : r.code = BitVec.ofNat 8 (reasonCode r) := by cases r <;> rfl

/-- An address that may be absent, as a number (11.2). -/
def addrValue : Option Addr → Nat
  | none => 0
  | some a => a.toNat

theorem addrBytes_getD (a : Option Addr) : addrBytes (a.getD 0) = leBytes 8 (addrValue a) := by cases a <;> rfl

theorem boolByte_eq (b : Bool) : boolByte b = BitVec.ofNat 8 (if b then 1 else 0) := by cases b <;> rfl

theorem peaks_toList (v : Vector Nat 8) : v.toList = [v[0], v[1], v[2], v[3], v[4], v[5], v[6], v[7]] := by
  apply List.ext_getElem
  · simp
  · intro i h h'
    rw [Vector.length_toList] at h
    interval_cases i <;> rfl

theorem indexRecord_layout (r : IndexRecord) : r.bytes = layout [
    (1, r.feed.val), (1, r.tag.toNat), (2, r.conditions.toNat), (4, r.serial.toNat), (1, r.timecode.frames.toNat),
    (1, r.timecode.seconds.toNat), (1, r.timecode.minutes.toNat), (1, r.timecode.hours.toNat), (1, reasonCode r.reason),
    (1, r.untrackedBefore), (2, r.lostBefore), (8, r.openTime.toNat), (8, r.ingestAddr.toNat), (4, r.frameLength),
    (2, r.linesMissing), (2, r.sequenceGaps), (8, addrValue r.slotAddr), (2, r.peaks[0]), (2, r.peaks[1]),
    (2, r.peaks[2]), (2, r.peaks[3]), (2, r.peaks[4]), (2, r.peaks[5]), (2, r.peaks[6]), (2, r.peaks[7])] := by
  simp only [IndexRecord.bytes, layout, List.flatMap_cons, List.flatMap_nil, leBytes_one, ofNat_toNat_byte, feedByte,
    timecodeBytes, addrBytes_getD, reason_code, peaks_toList, List.cons_append, List.nil_append, List.append_assoc,
    List.append_nil]
  rfl

/-- Settles O44: a record staged or lost, and its layout. -/
theorem indexStaging : Obligations.IndexStaging := by
  unfold Obligations.IndexStaging
  refine ⟨fun r s => ⟨fun room => ?_, fun full => ?_, fun within => ?_⟩, fun f p r => rfl, fun r => ?_⟩
  · obtain ⟨-, staged⟩ | ⟨full, -⟩ := stageIndex_cases r s
    · rw [staged]
      rfl
    · omega
  · obtain ⟨room, -⟩ | ⟨-, lost⟩ := stageIndex_cases r s
    · omega
    · exact lost
  · obtain ⟨room, staged⟩ | ⟨-, lost⟩ := stageIndex_cases r s
    · rw [staged, startBatch_staging]
      simp only [appendIndex, List.length_append, List.length_singleton]
      omega
    · rw [lost]
      exact within
  · exact recordHolds_layout _ (indexRecord_layout r) (by simp) fun q hq => hq

/-- The code of a command result, as a number (11.2). -/
def resultCode : CommandResult → Nat
  | .done => 0
  | .busy => 1
  | .noFeed => 2
  | .badParameter => 3
  | .overlap => 4
  | .noCatalogue => 5
  | .unknownCommand => 6

theorem result_code (r : CommandResult) : r.code = BitVec.ofNat 8 (resultCode r) := by cases r <;> rfl

/-- The code of a fault cause, as a number (11.2). -/
def causeCode : FaultCause → Nat
  | .browseWriteFailed => 1
  | .publishWriteFailed => 2
  | .noLock => 3

theorem cause_code (c : FaultCause) : c.code = BitVec.ofNat 8 (causeCode c) := by cases c <;> rfl

/-- The serial of the frame a FEED LOST closed, as a number (11.2). -/
def closedValue : Option Count → Nat
  | none => 0
  | some serial => serial.toNat

theorem leBytes_closed (c : Option Count) : leBytes 4 (c.getD 0).toNat = leBytes 4 (closedValue c) := by cases c <;> rfl

theorem boolByte_closed (c : Option Count) : boolByte c.isSome = BitVec.ofNat 8 (if c = none then 0 else 1) := by
  cases c <;> rfl

/-- The bytes of each kind of notice (11.2). -/
theorem notice_layout (time : Time) (lost : Nat) (body : NoticeBody) :
    ({ time := time, lost := lost, body := body } : Notice).bytes = layout (match body with
      | .commandDone serial opcode feedField result detail =>
        [(1, 1), (1, lost), (1, opcode.toNat), (1, feedField.toNat), (2, serial.toNat), (1, resultCode result), (1, 0),
          (8, time.toNat), (2, detail), (14, 0)]
      | .feedLost f lastArrival closed =>
        [(1, 2), (1, lost), (1, 0), (1, f.val), (4, 0), (8, time.toNat), (8, lastArrival.toNat), (4, closedValue closed),
          (1, if closed = none then 0 else 1), (3, 0)]
      | .feedRestored f arrival =>
        [(1, 3), (1, lost), (1, 0), (1, f.val), (4, 0), (8, time.toNat), (8, arrival.toNat), (8, 0)]
      | .feedFault f cause discarded =>
        [(1, 4), (1, lost), (1, 0), (1, f.val), (4, 0), (8, time.toNat), (1, causeCode cause), (1, discarded), (14, 0)]) := by
  cases body <;>
    simp only [Notice.bytes, layout, List.flatMap_cons, List.flatMap_nil, leBytes_one, leBytes_zero_value, ofNat_toNat_byte,
      feedByte, result_code, cause_code, leBytes_closed, boolByte_closed, List.cons_append, List.nil_append,
      List.append_assoc, List.append_nil] <;>
    rfl

/-- Settles O45: the write test, the staging that makes it, and the layouts. -/
theorem noticeEntryMade : Obligations.NoticeEntryMade := by
  unfold Obligations.NoticeEntryMade
  refine ⟨fun s => ?_, fun body s => ⟨fun room => ?_, fun full => ?_⟩, fun n => ?_⟩
  · have tested : exec .noticeEntryMake s = .next s.noticeTested := congrArg Host.Outcome.next (makeNoticeEntry_eq s)
    refine ⟨tested, fun n rest staging absent below normal => ?_, fun refused => ?_⟩
    · rw [tested, State.noticeTested, staging]
      exact congrArg Host.Outcome.next (if_pos ⟨absent, below, normal⟩)
    · rw [tested]
      rw [State.noticeTested]
      obtain empty | refused := refused
      · rw [empty]
      · split
        · rfl
        · rw [if_neg]
          rintro ⟨absent, below, normal⟩
          obtain ⟨e, he, notice⟩ | full | failed := refused
          · exact absent e he notice
          · omega
          · rw [failed] at normal
            cases normal
  · have roomy : s.noticeRoom = true := decide_eq_true room
    rw [stageEvent, if_pos roomy]
    rfl
  · have none : s.noticeRoom = false := decide_eq_false (Nat.not_lt.mpr full)
    rw [stageEvent, none]
    rfl
  · obtain ⟨time, lost, body⟩ := n
    have laid := notice_layout time lost body
    cases body with
    | commandDone serial opcode feedField result detail =>
      refine recordHolds_layout (fields := [(1, 1, lost), (8, 8, time.toNat), (0, 1, 1), (2, 1, opcode.toNat),
        (3, 1, feedField.toNat), (4, 2, serial.toNat), (6, 1, resultCode result), (7, 1, 0), (16, 2, detail),
        (18, 14, 0)]) _ laid (by simp) ?_
      simp [fieldsFrom]
    | feedLost f lastArrival closed =>
      refine recordHolds_layout (fields := [(1, 1, lost), (8, 8, time.toNat), (0, 1, 2), (2, 1, 0), (3, 1, f.val),
        (4, 4, 0), (16, 8, lastArrival.toNat), (24, 4, closedValue closed), (28, 1, if closed = none then 0 else 1),
        (29, 3, 0)]) _ laid (by simp) ?_
      simp [fieldsFrom]
    | feedRestored f arrival =>
      refine recordHolds_layout _ laid (by simp) ?_
      simp [fieldsFrom]
    | feedFault f cause discarded =>
      refine recordHolds_layout (fields := [(1, 1, lost), (8, 8, time.toNat), (0, 1, 4), (2, 1, 0), (3, 1, f.val),
        (4, 4, 0), (16, 1, causeCode cause), (17, 1, discarded), (18, 14, 0)]) _ laid (by simp) ?_
      simp [fieldsFrom]

end Sys2Proof.Machine
end

section
/-! The three words and the batch: coalescing, the batch start test, and the answers of a word, a batch and a notice
(chapters 4.4, 5.4, 5.5, 8.1, 9.4). -/

namespace Sys2Proof.Machine

/-! ### Words -/

/-- A word put in the state it is in. -/
theorem setWord_self {w : WordId} {x : WordState} {s : State} (h : w.state s = x) : setWord w x s = s := by
  subst h
  cases w with
  | publish f => exact State.setFeed_self s f
  | catalogue => rfl
  | notice => rfl

theorem makeEntry_queue (d : EntryDraft) (s : State) :
    makeEntry d s = { s with insQ := (makeEntry d s).insQ, nextAge := (makeEntry d s).nextAge } := by
  obtain same | ⟨-, -, made⟩ := makeEntry_cases d s
  · rw [same]
  · rw [made]

/-- A word whose count has increased moves its state, and of the rest the queue's entries alone (R82, R102, R183). -/
theorem updateWord_eq (w : WordId) (s : State) : updateWord w s = setWord w (w.state s).moved
    { s with insQ := (updateWord w s).insQ, nextAge := (updateWord w s).nextAge } := by
  unfold updateWord
  cases word : w.state s with
  | none =>
    simp only [queueWord, setWord_insQ, setWord_nextAge]
    rw [← makeEntry_queue]
    rfl
  | queued => exact (setWord_self (s := replaceWord w s) (by cases w <;> exact word)).symm
  | issued =>
    simp only [setWord_insQ, setWord_nextAge]
    rfl
  | issuedMoved => exact (setWord_self word).symm

/-- The entry of a word is the 32 bytes of its block, its four lanes enabled (R154). -/
theorem wordDraft_entry (w : WordId) (age : Nat) (s : State) : (wordDraft w s).entry age = w.entry age s := by
  cases w with
  | publish f =>
    have block : WordId.offset (.publish f) / 32 * 32 = 0x1840 + 32 * (f.val / 8) := by
      simp only [WordId.offset, Config.publishOffset]
      omega
    have lane : WordId.offset (.publish f) % 32 = 4 * (f.val % 8) := by
      simp only [WordId.offset, Config.publishOffset]
      omega
    rw [wordDraft, block, lane]
    rfl
  | catalogue => rfl
  | notice => rfl

theorem owns_iff (w : WordId) (e : InsEntry) : w.owns e = true ↔ e.source = w.source ∧ e.kind = w.kind := by
  rw [WordId.owns, Bool.and_eq_true, decide_eq_true_eq, decide_eq_true_eq]

/-- A word with no entry in the queue makes one, carrying its present count. -/
theorem queueWord_eq {w : WordId} {s : State} (normal : s.engine = .normal) (none : ∀ e ∈ s.insQ, w.owns e = false) :
    queueWord w s = setWord w .queued { s with
      insQ := s.insQ ++ [w.entry s.nextAge s], nextAge := s.nextAge + 1 } := by
  have room : quotaRoom s.insQ (wordDraft w s).source (wordDraft w s).kind = true :=
    quotaRoom_of_none fun e he c => by
      have none' := none e he
      rw [(owns_iff w e).mpr c] at none'
      cases none'
  rw [queueWord, makeEntry_eq normal room, wordDraft_entry]

/-- The state after an OK answer in NORMAL (R162). -/
theorem answerOk_flight {s : State} {e : InsEntry} {t : Tag} (flight : s.inFlight e t) (normal : s.engine = .normal) :
    exec (.insertionAnswer t .ok) s = .next (answerOk e (s.freed e t)) := by
  have : State.normal (s.setTag t .free) = true := decide_eq_true normal
  rw [execInsertionAnswer_eq .ok flight]
  simp only [answerEntry, this, if_true, dropEntry_setTag]

theorem answerOk_word {e : InsEntry} {w : WordId} (h : e.word = some w) (s : State) :
    answerOk e s = wordAnswered w e.data.wordValue s := by
  unfold answerOk
  obtain ⟨f, rfl, kind, source⟩ | ⟨rfl, kind⟩ | ⟨rfl, kind⟩ := InsEntry.word_cases h
  · rw [kind, source]
  · rw [kind]
  · rw [kind]

theorem WordId.state_freed (w : WordId) (s : State) (e : InsEntry) (t : Tag) : w.state (s.freed e t) = w.state s := by
  cases w <;> rfl

theorem WordId.value_freed (w : WordId) (s : State) (e : InsEntry) (t : Tag) : w.value (s.freed e t) = w.value s := by
  cases w <;> rfl

theorem WordId.entry_freed (w : WordId) (age : Nat) (s : State) (e : InsEntry) (t : Tag) :
    w.entry age (s.freed e t) = w.entry age s := by
  cases w <;> rfl

/-- Settles O25: the coalescing table, the answer, and what a word is. -/
theorem wordCoalesces : Obligations.WordCoalesces := by
  unfold Obligations.WordCoalesces
  refine ⟨fun w s normal => ⟨fun state none => ?_, fun state => ?_, fun state => ?_, ?_⟩, fun s x f e => ?_⟩
  · rw [updateWord, state]
    exact queueWord_eq normal none
  · rw [updateWord, state]
    rfl
  · rw [updateWord]
    obtain state | state := state
    · rw [state]
    · rw [state, setWord_self state]
  · intro e t v flight word data only
    rw [answerOk_flight flight normal, answerOk_word word, data, show (DataRef.word v).wordValue = v from rfl, wordAnswered,
      w.state_freed, w.value_freed]
    by_cases moved : w.state s = .issuedMoved ∧ w.value s ≠ v
    · have none : ∀ x ∈ (s.freed e t).insQ, w.owns x = false := fun x hx => by
        obtain ⟨mem, age⟩ := List.mem_filter.mp hx
        by_contra owned
        rw [only x mem (by simpa using owned)] at age
        simp at age
      rw [if_pos moved, if_pos moved, queueWord_eq (s := s.freed e t) normal none, w.entry_freed]
      rfl
    · rw [if_neg moved, if_neg moved]
  · exact ⟨rfl, rfl, rfl, rfl, rfl, rfl, rfl, rfl, rfl, owns_iff _ e, owns_iff _ e, owns_iff _ e⟩

/-! ### The batch -/

/-- A source with no entry of a kind that has one place, and room for it (R156). -/
theorem quotaRoom_iff_none {q : List InsEntry} {src : Source} {kind : EntryKind} (one : kind ≠ .row) :
    quotaRoom q src kind = true ↔ ∀ e ∈ q, ¬ (e.source = src ∧ e.kind = kind) := by
  refine ⟨fun room e he mine => ?_, quotaRoom_of_none⟩
  have limit : kind.limit = 1 := by
    cases kind with
    | row => exact absurd rfl one
    | _ => rfl
  rw [quotaRoom, decide_eq_true_eq, limit, Nat.lt_one_iff, List.countP_eq_zero] at room
  exact room e he (by rw [mine.1, mine.2]; simp)

theorem flushWaited_iff (s : State) (d : CatalogueDef) : flushWaited s d = true ↔
    ∃ r q, s.catalogue.staging = r :: q ∧ d.flushMs * 1000 ≤ s.timeBase.toNat - r.time.toNat := by
  unfold flushWaited
  split
  · rename_i empty
    rw [empty]
    exact ⟨nofun, fun ⟨_, _, c, _⟩ => nomatch c⟩
  · rename_i r q staging
    rw [decide_eq_true_eq, staging]
    exact ⟨fun waited => ⟨r, q, rfl, waited⟩, fun ⟨_, _, c, waited⟩ => by cases c; exact waited⟩

/-- The conditions of the start test, as the rules give them (R96). -/
theorem batchReady_iff (s : State) (d : CatalogueDef) : batchReady s d = true ↔
    (s.engine = .normal ∧ s.catalogue.batch = none ∧ (∀ e ∈ s.insQ, ¬ (e.source = .catalogue ∧ e.kind = .batch))
      ∧ 1 ≤ batchSize s.catalogue d)
      ∧ (d.trigger ≤ s.catalogue.staging.length ∨ flushWaited s d = true) := by
  simp only [batchReady, Bool.and_eq_true, Bool.or_eq_true, decide_eq_true_eq, State.normal,
    quotaRoom_iff_none (show EntryKind.batch ≠ .row by nofun)]
  constructor
  · rintro ⟨⟨⟨⟨none, normal⟩, due⟩, some⟩, room⟩
    exact ⟨⟨normal, none, room, some⟩, due⟩
  · rintro ⟨⟨normal, none, room, some⟩, due⟩
    exact ⟨⟨⟨⟨none, normal⟩, due⟩, some⟩, room⟩

/-- A start test that passes makes the batch's entry. -/
theorem startBatch_ready {s : State} {d : CatalogueDef} (defined : s.catalogue.defn = some d)
    (ready : batchReady s d = true) : startBatch s = { s with
      insQ := s.insQ ++ [(batchDraft s.catalogue d (batchSize s.catalogue d)).entry s.nextAge],
      nextAge := s.nextAge + 1,
      catalogue := { s.catalogue with
        batch := some { first := s.catalogue.produced.toNat % d.entries, size := batchSize s.catalogue d } } } := by
  obtain ⟨⟨normal, -, room, -⟩, -⟩ := (batchReady_iff s d).mp ready
  unfold startBatch
  rw [defined]
  dsimp only
  rw [if_pos ready]
  simp only [makeBatch]
  rw [makeEntry_eq (d := batchDraft s.catalogue d (batchSize s.catalogue d)) normal (quotaRoom_of_none room)]

theorem startBatch_unready {s : State} {d : CatalogueDef} (defined : s.catalogue.defn = some d)
    (unready : batchReady s d = false) : startBatch s = s := by
  unfold startBatch
  rw [defined]
  dsimp only
  rw [unready]
  rfl

/-- Settles O43: the start test, at either step. -/
theorem batchStarts : Obligations.BatchStarts := by
  unfold Obligations.BatchStarts
  refine ⟨fun s d defined => ?_, fun s none => ?_⟩
  · intro waited n clear place started
    have due : (∃ r q, s.catalogue.staging = r :: q ∧ d.flushMs * 1000 ≤ s.timeBase.toNat - r.time.toNat)
        ↔ flushWaited s d = true := (flushWaited_iff s d).symm
    have expired : flushExpired s = flushWaited s d := by rw [flushExpired, defined]
    have ready_iff : batchReady s d = true ↔ clear ∧ (d.trigger ≤ s.catalogue.staging.length ∨ waited) := by
      rw [batchReady_iff, ← due]
    have starts : clear → d.trigger ≤ s.catalogue.staging.length ∨ waited → startBatch s = started := fun c w =>
      startBatch_ready defined (ready_iff.mpr ⟨c, w⟩)
    have rests : ¬ (clear ∧ (d.trigger ≤ s.catalogue.staging.length ∨ waited)) → startBatch s = s := fun c =>
      startBatch_unready defined (eq_false_of_ne_true fun r => c (ready_iff.mp r))
    refine ⟨fun c w => congrArg Host.Outcome.next (starts c w), fun c w => ?_,
      fun c => congrArg Host.Outcome.next (rests c), fun c => ?_⟩
    · simp only [exec, execFlushTimeoutExpiry, expired, due.mp w, if_true, starts c (.inr w)]
    · simp only [exec, execFlushTimeoutExpiry, expired]
      split
      · rename_i w
        by_cases ok : clear
        · exact absurd ⟨ok, due.mpr w⟩ c
        · rw [rests fun r => ok r.1]
      · rfl
  · simp [exec, execBatchStart, execFlushTimeoutExpiry, startBatch, flushExpired, none]

/-- Settles O23: the answer of a batch, and what the start test behind it leaves. -/
theorem Settled.batchAnswered : Obligations.BatchAnswered := by
  unfold Obligations.BatchAnswered
  intro s e t b flight normal kind source batch moved
  have word : moved.catalogue = { s.catalogue with
      produced := s.catalogue.produced + BitVec.ofNat 32 b.size,
      staging := s.catalogue.staging.drop b.size, batch := none, word := s.catalogue.word.moved } :=
    congrArg State.catalogue (updateWord_eq _ _)
  have others : moved = { s with
      tags := s.tags.set t .free, insQ := moved.insQ, nextAge := moved.nextAge, catalogue := moved.catalogue } := by
    rw [word]
    exact updateWord_eq _ _
  have started : (startBatch moved).catalogue = { moved.catalogue with batch := (startBatch moved).catalogue.batch } := by
    obtain same | ⟨d, -, -, made⟩ := startBatch_cases moved
    · rw [same]
    · rw [made]
  have answered : answerOk e (s.freed e t) = startBatch moved := by
    simp only [answerOk, kind, source]
    unfold Machine.batchAnswered
    simp only [show (s.freed e t).catalogue.batch = some b from batch]
    rfl
  refine ⟨startBatch moved, by rw [answerOk_flight flight normal, answered], rfl, word, started, ?_, ?_, ?_, ?_, ?_, ?_, ?_⟩
  · exact (startBatch_tags _).trans (congrArg State.tags others :)
  · exact (startBatch_feeds _).trans (congrArg State.feeds others :)
  · exact (startBatch_notices _).trans (congrArg State.notices others :)
  · exact (startBatch_commands _).trans (congrArg State.commands others :)
  · exact (startBatch_engine _).trans (congrArg State.engine others :)
  · exact (startBatch_forwardQ _).trans (congrArg State.forwardQ others :)
  · exact (startBatch_tapQ _).trans (congrArg State.tapQ others :)

/-- Settles O24: the answer of a notice, and the write test behind it. -/
theorem Settled.noticeAnswered : Obligations.NoticeAnswered := by
  unfold Obligations.NoticeAnswered
  intro s e t flight normal kind source moved
  have word : moved = { s with
      tags := s.tags.set t .free, insQ := moved.insQ, nextAge := moved.nextAge,
      notices := { s.notices with
        produced := s.notices.produced + 1, staging := s.notices.staging.tail, word := s.notices.word.moved } } :=
    updateWord_eq _ _
  have answered : answerOk e (s.freed e t) = makeNoticeEntry moved := by
    simp only [answerOk, kind, source]
    rfl
  refine ⟨by rw [answerOk_flight flight normal, answered, makeNoticeEntry_eq], word, ?_⟩
  rw [← makeNoticeEntry_eq, State.attention, makeNoticeEntry_notices, congrArg State.notices word, decide_eq_true_eq]

end Sys2Proof.Machine
end

section
/-! The nine commands, their refusals and the drain exit (chapters 5.1, 6.1 to 6.6, 9.2, 9.3, 9.6). -/

namespace Sys2Proof.Machine

/-! ### Running the head command -/

/-- The head the command unit executes takes its command's step. -/
theorem runHead_eq {s : State} {c : Command} {rest : List Command} {code : Byte} (runs : s.headRuns c rest code)
    {names : Command → Bool} (named : names c = true) (body : Command → State → State) :
    runHead names body s = body c s := by
  rw [runHead, executableHead_eq runs]
  exact if_pos named

theorem hasOpcode_eq {s : State} {c : Command} {rest : List Command} {code : Byte} (runs : s.headRuns c rest code)
    {op : Opcode} (names : opcodeOf code = some op) : hasOpcode op c = true := by
  obtain ⟨-, -, -, -, byte⟩ := runs
  rw [hasOpcode, Command.opcode, byte, names, decide_eq_true_eq]

theorem onFeed_eq {c : Command} {f : FeedId} (field : c.feedField = BitVec.ofNat 8 f.val)
    (body : FeedId → Command → State → State) (s : State) : onFeed body c s = body f c s := by
  rw [onFeed, Command.feed_eq field]

theorem onFeed_none {c : Command} (field : 15 < c.feedField.toNat) (body : FeedId → Command → State → State) (s : State) :
    onFeed body c s = complete c .noFeed 0 s := by
  rw [onFeed, Command.feed_none field]

/-- The head's queue. -/
theorem State.headRuns.queue {s : State} {c : Command} {rest : List Command} {code : Byte} (runs : s.headRuns c rest code) :
    s.commands.queue = c :: rest := by
  obtain ⟨-, -, -, queue, -⟩ := runs
  exact queue

/-- An opcode byte that names no command. -/
theorem opcodeOf_none {code : Byte} (h : code = 0 ∨ 9 < code.toNat) : opcodeOf code = none := by
  have outside : code.toNat = 0 ∨ 9 < code.toNat := h.imp (fun zero => by rw [zero]; rfl) id
  unfold opcodeOf
  split
  case h_10 => rfl
  all_goals omega

theorem opcodeOf_resetEngine {code : Byte} (h : opcodeOf code = some .resetEngine) : code = 0x09 := by
  unfold opcodeOf at h
  split at h
  case h_9 nine => exact BitVec.eq_of_toNat_eq nine
  all_goals cases h

/-- Settles O54: the tests that come before a command's own, and the discard. -/
theorem refusedCommands : Obligations.RefusedCommands := by
  unfold Obligations.RefusedCommands
  intro s c rest code
  refine ⟨fun runs unknown => ?_, fun runs field step named => ?_, fun failed queue other => ?_⟩
  · obtain ⟨-, -, -, -, byte⟩ := id runs
    have named : c.opcode.isNone = true := by rw [Command.opcode, byte, opcodeOf_none unknown]; rfl
    simp only [exec, execUnknownCommand]
    rw [runHead_eq (names := fun c => c.opcode.isNone) runs named, complete_eq_answered _ _ runs.queue]
  · have refused : ∀ (names : Command → Bool) (body : FeedId → Command → State → State), names c = true →
        runHead names (onFeed body) s = s.answered c rest .noFeed 0 := fun names body named => by
      rw [runHead_eq runs named, onFeed_none field, complete_eq_answered _ _ runs.queue]
    obtain one | ⟨rfl, rfl, mode⟩ | ⟨rfl, rfl, mode⟩ := named
    · simp only [List.mem_cons, Prod.mk.injEq, List.not_mem_nil, or_false] at one
      obtain ⟨rfl, rfl⟩ | ⟨rfl, rfl⟩ | ⟨rfl, rfl⟩ | ⟨rfl, rfl⟩ | ⟨rfl, rfl⟩ | ⟨rfl, rfl⟩ := one <;>
        exact congrArg Host.Outcome.next (refused _ _ (hasOpcode_eq runs rfl))
    · refine congrArg Host.Outcome.next (refused _ _ ?_)
      rw [hasOpcode_eq runs rfl, decide_eq_true mode]
      rfl
    · refine congrArg Host.Outcome.next (refused _ _ ?_)
      rw [hasOpcode_eq runs rfl, decide_eq_true mode]
      rfl
  · have notReset : hasOpcode .resetEngine c = false :=
      decide_eq_false fun names => other (opcodeOf_resetEngine names)
    simp only [exec, execCommandDiscard, failed, queue, notReset, Bool.false_eq_true, if_false, popHead, List.tail_cons]

/-! ### START, SUSPEND, RESUME and RETIRE -/

/-- The head command completes on a state with the same queue. -/
theorem next_complete {u : State} {c : Command} {rest : List Command} (queue : u.commands.queue = c :: rest)
    (result : CommandResult) (detail : Nat) :
    (Host.Outcome.next (complete c result detail u) : Host.Outcome State Fault Refusal)
      = .next (u.answered c rest result detail) :=
  congrArg Host.Outcome.next (complete_eq_answered result detail queue)

/-- Settles O48: the three commands, by the feed's state. -/
theorem startSuspendResume : Obligations.StartSuspendResume := by
  unfold Obligations.StartSuspendResume
  intro s c rest f field
  refine ⟨fun runs => ?_, fun runs => ?_, fun runs => ?_⟩
  · have step : exec .startFeed s = .next (doStart f c s) := congrArg Host.Outcome.next
      ((runHead_eq runs (hasOpcode_eq runs rfl) _).trans (onFeed_eq field _ s))
    rw [step, doStart]
    refine ⟨fun state => ?_, fun state => ?_⟩
    · rw [state]
      exact next_complete (u := s.setFeed f _) runs.queue .done 0
    · split
      · exact absurd ‹_› state
      all_goals exact next_complete runs.queue .busy 0
  · have step : exec .suspendFeed s = .next (doSuspend f c s) := congrArg Host.Outcome.next
      ((runHead_eq runs (hasOpcode_eq runs rfl) _).trans (onFeed_eq field _ s))
    rw [step, doSuspend]
    refine ⟨fun state => ?_, fun state => ?_, fun notActive notSuspended => ?_⟩
    · rw [state]
      exact next_complete (u := s.setFeed f _) runs.queue .done 0
    · rw [state]
      exact next_complete runs.queue .done 0
    · split
      · exact absurd ‹_› notActive
      · exact absurd ‹_› notSuspended
      all_goals exact next_complete runs.queue .busy 0
  · have step : exec .resumeFeed s = .next (doResume f c s) := congrArg Host.Outcome.next
      ((runHead_eq runs (hasOpcode_eq runs rfl) _).trans (onFeed_eq field _ s))
    rw [step, doResume]
    refine ⟨fun state => ?_, fun state => ?_, fun notActive notSuspended => ?_⟩
    · rw [state]
      exact next_complete (u := s.setFeed f _) runs.queue .done 0
    · rw [state]
      exact next_complete runs.queue .done 0
    · split
      · exact absurd ‹_› notSuspended
      · exact absurd ‹_› notActive
      all_goals exact next_complete runs.queue .busy 0

/-- RETIRE FEED by either step whose mode is not the other's (R119). -/
theorem exec_retire {s : State} {c : Command} {rest : List Command} {f : FeedId} {step : Instr}
    (runs : s.headRuns c rest 0x06) (field : c.feedField = BitVec.ofNat 8 f.val)
    (mode : step = .retireFeedAtFrameEnd ∧ c.retireMode ≠ some .now
      ∨ step = .retireFeedNow ∧ c.retireMode ≠ some .atFrameEnd) :
    exec step s = .next (doRetire f c s) := by
  obtain ⟨rfl, other⟩ | ⟨rfl, other⟩ := mode
  all_goals
    refine congrArg Host.Outcome.next ((runHead_eq runs ?_ _).trans (onFeed_eq field _ s))
    rw [hasOpcode_eq runs rfl, decide_eq_true other]
    rfl

/-- Settles O49: RETIRE FEED by the feed's state. -/
theorem retireFeed : Obligations.RetireFeed := by
  unfold Obligations.RetireFeed
  intro s c rest f runs field x drain left
  have queue := runs.queue
  refine ⟨fun step mem => ⟨fun chosen => ?_, fun mode => ?_⟩, fun mode state => ?_⟩
  · have ⟨mode, chosenMode, stepped⟩ : ∃ mode, c.retireMode = some mode ∧ exec step s = .next (doRetire f c s) := by
      obtain ⟨rfl, mode⟩ | ⟨rfl, mode⟩ := chosen
      · exact ⟨_, mode, exec_retire runs field (.inl ⟨rfl, by rw [mode]; nofun⟩)⟩
      · exact ⟨_, mode, exec_retire runs field (.inr ⟨rfl, by rw [mode]; nofun⟩)⟩
    rw [stepped, doRetire, chosenMode]
    dsimp only
    refine ⟨fun state => ?_, fun state => ?_, fun state => ?_, fun state => ?_⟩
    · unfold retire
      rw [state]
      exact next_complete queue .done 0
    · unfold retire
      rw [state]
      exact next_complete (u := s.setFeed f _) queue .done 0
    · unfold retire
      rw [state]
      show Host.Outcome.next (popHead (s.setFeed f { x with life := drain })) = _
      rw [popHead, State.setFeed_commands, queue]
      rfl
    · unfold retire
      rw [state]
      exact next_complete queue .busy 0
  · have stepped : exec step s = .next (doRetire f c s) := by
      simp only [List.mem_cons, List.not_mem_nil, or_false] at mem
      obtain rfl | rfl := mem
      · exact exec_retire runs field (.inl ⟨rfl, by rw [mode]; nofun⟩)
      · exact exec_retire runs field (.inr ⟨rfl, by rw [mode]; nofun⟩)
    rw [stepped, doRetire, mode]
    exact next_complete queue .badParameter 0
  · have stepped : exec .retireFeedAtFrameEnd s
        = .next (popHead (retireAtFrameEnd f (s.setFeed f { x with life := drain }))) := by
      rw [exec_retire runs field (.inl ⟨rfl, by rw [mode]; nofun⟩), doRetire, mode]
      dsimp only
      unfold retire
      obtain state | state := state <;> rw [state] <;> rfl
    rw [stepped, retireAtFrameEnd, State.feed_setFeed_self]
    refine ⟨fun open_ => ?_, fun closed => ?_⟩
    · rw [if_neg open_, popHead, State.setFeed_modFeed, State.setFeed_commands, queue]
      rfl
    · rw [if_pos closed]
      have feed : (popHead (stopParser f (s.setFeed f { x with life := drain }))).feed f = idleFeed { x with life := drain } :=
        (stopParser_feed_self f _).trans (congrArg idleFeed (State.feed_setFeed_self s f _))
      refine ⟨_, rfl, ?_, ?_, ?_, ?_, ?_, ?_, rfl, rfl, rfl, ?_, fun g other => ?_⟩
      · rw [feed, idleFeed_life]
      · rw [feed, idleFeed_parse]
      · rw [feed, idleFeed_parse]
      · rw [feed, idleFeed_frame]
      · rw [feed, idleFeed_rows]
      · rw [feed, idleFeed_publisher]
      · show ({ queue := s.commands.queue.tail, phase := .ready } : CommandUnit) = _
        rw [queue]
        rfl
      · exact (stopParser_feed_ne _ other).trans (State.feed_setFeed_ne s _ other)

/-! ### SET CATALOGUE and DEFINE FEED -/

theorem not_eq_true_iff {b : Bool} {p : Prop} (h : b = true ↔ p) : (!b) = true ↔ ¬ p := by
  rw [Bool.not_eq_true', Bool.eq_false_iff]
  exact not_congr h

theorem catalogueBusy_iff (s : State) : catalogueBusy s = true ↔
    (∃ f : FeedId, (s.feed f).life.state ≠ .vacant) ∨ s.catalogue.staging ≠ []
      ∨ ∃ e ∈ s.insQ, e.source = .catalogue := by
  simp [catalogueBusy, mem_allFeeds, or_assoc]

theorem catalogue_inRange_iff (p : CatalogueParams) : p.inRange = true ↔
    p.base % 4096 = 0 ∧ (∃ k : Fin 11, p.entries = 64 * 2 ^ k.val)
      ∧ (p.trigger = 1 ∨ p.trigger = 2 ∨ p.trigger = 4 ∨ p.trigger = 8 ∨ p.trigger = 16)
      ∧ 1 ≤ p.flushMs ∧ p.flushMs ≤ 1000 ∧ p.base + 64 * p.entries ≤ 2 ^ 40 := by
  have power : (∃ k : Fin 11, p.entries = 64 * 2 ^ k.val) ↔ ∃ k ∈ List.range 11, p.entries = 64 * 2 ^ k :=
    ⟨fun ⟨k, h⟩ => ⟨k.val, List.mem_range.mpr k.isLt, h⟩, fun ⟨k, hk, h⟩ => ⟨⟨k, List.mem_range.mp hk⟩, h⟩⟩
  simp only [CatalogueParams.inRange, Bool.and_eq_true, List.any_eq_true, decide_eq_true_eq, List.contains_iff_mem,
    List.mem_cons, List.not_mem_nil, or_false, power, and_assoc]

/-- Settles O46: the first result that applies, and the definition on DONE. -/
theorem setCatalogue : Obligations.SetCatalogue := by
  unfold Obligations.SetCatalogue
  intro s c rest runs base entries trigger flush result placed
  have queue := runs.queue
  have step : exec .setCatalogue s = .next (doSetCatalogue c s) :=
    congrArg Host.Outcome.next (runHead_eq runs (hasOpcode_eq runs rfl) _)
  have first : catalogueResult c.catalogueParams s = result := by
    have outside := not_eq_true_iff (catalogue_inRange_iff c.catalogueParams)
    exact if_congr (catalogueBusy_iff s) rfl (if_congr outside rfl (if_congr Iff.rfl rfl rfl))
  rw [step, doSetCatalogue]
  rw [first]
  split
  · exact next_complete (u := placed) queue result 0
  · exact next_complete queue result 0

theorem feed_inRange_iff (p : FeedParams) : p.inRange = true ↔
    (∃ k : Fin 15, p.ingestSize = 65536 * 2 ^ k.val) ∧ p.ingestBase % p.ingestSize = 0
      ∧ p.ingestBase + p.ingestSize ≤ 2 ^ 40 ∧ p.browseBase % 4096 = 0 ∧ 4096 ≤ p.slotSize ∧ p.slotSize ≤ 16777216
      ∧ p.slotSize % 4096 = 0 ∧ 2 ≤ p.slotCount ∧ p.slotCount ≤ 256 ∧ p.browseBase + p.slotCount * p.slotSize ≤ 2 ^ 40
      ∧ (p.decimation = 2 ∨ p.decimation = 4 ∨ p.decimation = 8) ∧ p.legalClamp ≤ 1 ∧ p.rateCode ≤ 5
      ∧ p.priority ≤ 3 ∧ p.lossTimeout ≤ 1000 := by
  have power : (∃ k : Fin 15, p.ingestSize = 65536 * 2 ^ k.val) ↔ ∃ k ∈ List.range 15, p.ingestSize = 65536 * 2 ^ k :=
    ⟨fun ⟨k, h⟩ => ⟨k.val, List.mem_range.mpr k.isLt, h⟩, fun ⟨k, hk, h⟩ => ⟨⟨k, List.mem_range.mp hk⟩, h⟩⟩
  simp only [FeedParams.inRange, Bool.and_eq_true, List.any_eq_true, decide_eq_true_eq, List.contains_iff_mem,
    List.mem_cons, List.not_mem_nil, or_false, power, and_assoc]

/-- The windows a definition would place meet a span. -/
def FeedParams.clash (p : FeedParams) (base size : Nat) : Prop :=
  rangesShare p.ingestBase p.ingestSize base size = true
    ∨ rangesShare p.browseBase (p.slotCount * p.slotSize) base size = true

theorem exists_mem_map_toList {α : Type} {span : α → Span} (o : Option α) (P : Span → Prop) :
    (∃ w ∈ (o.map span).toList, P w) ↔ ∃ g ∈ o, P (span g) := by
  cases o <;> simp

theorem exists_mem_feedSpans (P : Span → Prop) (x : Feed) :
    (∃ w ∈ feedSpans x, P w) ↔ (∃ w ∈ x.ingest, P w.span) ∨ ∃ g ∈ x.browse, P g.span := by
  simp only [feedSpans, List.mem_append, or_and_right, exists_or]
  exact or_congr (exists_mem_map_toList _ P) (exists_mem_map_toList _ P)

theorem definesOverlap_iff (f : FeedId) (p : FeedParams) (s : State) : definesOverlap f p s = true ↔
    rangesShare p.ingestBase p.ingestSize p.browseBase (p.slotCount * p.slotSize) = true ∨ p.clash s.controlBase 65536
      ∨ (∃ g ∈ s.catalogue.region, p.clash g.base.toNat g.size)
      ∨ (∃ h : FeedId, h ≠ f ∧ ((∃ w ∈ (s.feed h).ingest, p.clash w.base.toNat w.size)
        ∨ ∃ g ∈ (s.feed h).browse, p.clash g.base.toNat g.size)) := by
  have spans : (watchedSpans f s).any (fun w => spansShare (p.ingestBase, p.ingestSize) w
        || spansShare (p.browseBase, p.slotCount * p.slotSize) w) = true ↔ ∃ w ∈ watchedSpans f s, p.clash w.1 w.2 := by
    simp only [List.any_eq_true, Bool.or_eq_true]
    exact Iff.rfl
  have watched : (∃ w ∈ watchedSpans f s, p.clash w.1 w.2) ↔ p.clash s.controlBase 65536
      ∨ (∃ g ∈ s.catalogue.region, p.clash g.base.toNat g.size)
      ∨ ∃ h : FeedId, h ≠ f ∧ ((∃ w ∈ (s.feed h).ingest, p.clash w.base.toNat w.size)
        ∨ ∃ g ∈ (s.feed h).browse, p.clash g.base.toNat g.size) := by
    simp only [watchedSpans, List.mem_append, or_and_right, exists_or, List.exists_mem_cons_iff, List.mem_flatMap,
      List.mem_filter, decide_eq_true_eq, or_assoc]
    refine or_congr Iff.rfl (or_congr (exists_mem_map_toList _ fun w : Span => p.clash w.1 w.2) ?_)
    have regrouped : (∃ w, (∃ h, (h ∈ allFeeds ∧ h ≠ f) ∧ w ∈ feedSpans (s.feed h)) ∧ p.clash w.1 w.2)
        ↔ ∃ h, h ≠ f ∧ ∃ w ∈ feedSpans (s.feed h), p.clash w.1 w.2 :=
      ⟨fun ⟨w, ⟨h, ⟨_, other⟩, mem⟩, clash⟩ => ⟨h, other, w, mem, clash⟩,
        fun ⟨h, other, w, mem, clash⟩ => ⟨w, ⟨h, ⟨mem_allFeeds h, other⟩, mem⟩, clash⟩⟩
    refine regrouped.trans (exists_congr fun h => and_congr Iff.rfl ?_)
    exact exists_mem_feedSpans (fun w : Span => p.clash w.1 w.2) (s.feed h)
  rw [definesOverlap]
  rw [Bool.or_eq_true, spans, watched]
  exact Iff.rfl

/-- Settles O47: the first result that applies, and the definition on DONE. -/
theorem defineFeed : Obligations.DefineFeed := by
  unfold Obligations.DefineFeed
  intro s c rest f runs field x p ingestBase ingestSize slotSize browseBase slotCount browseSize clash result placed
  have queue := runs.queue
  have step : exec .defineFeed s = .next (doDefine f c s) := congrArg Host.Outcome.next
      ((runHead_eq runs (hasOpcode_eq runs rfl) _).trans (onFeed_eq field _ s))
  have first : defineResult f c.feedParams s = result := by
    have outside := not_eq_true_iff (feed_inRange_iff c.feedParams)
    have undefined : s.catalogue.defn.isNone = true ↔ s.catalogue.defn = none := Option.isNone_iff_eq_none
    unfold defineResult
    by_cases vacant : (s.feed f).life.state ≠ .vacant
    · rw [if_pos vacant]
      exact (if_pos (.inl vacant)).symm
    · rw [if_neg vacant]
      have staged : (s.catalogue.staging.any fun r => decide (r.record.feed = f)) = true
          ↔ (s.feed f).life.state ≠ .vacant ∨ ∃ r ∈ s.catalogue.staging, r.record.feed = f := by
        rw [List.any_eq_true, or_iff_right vacant]
        simp only [decide_eq_true_eq]
      exact if_congr staged rfl (if_congr undefined rfl (if_congr outside rfl
        (if_congr (definesOverlap_iff f c.feedParams s) rfl rfl)))
  rw [step, doDefine]
  rw [first]
  split
  · exact next_complete (u := placed) queue result 0
  · exact next_complete queue result 0

end Sys2Proof.Machine
end

section
/-! Restart, report, the engine's reset, the drain exit and the row part's entry (chapters 4.1, 6.5, 6.6, 9.3, 11.2). -/

namespace Sys2Proof.Machine

/-! ### RESTART FEED -/

theorem orphanOf_iff (f : FeedId) (x : TagState) : x.orphanOf f = true ↔ ∃ i, x = .orphaned i ∧ i.source = .feed f := by
  cases x with
  | orphaned i =>
    rw [TagState.orphanOf, decide_eq_true_eq]
    exact ⟨fun h => ⟨i, rfl, h⟩, fun ⟨_, eq, h⟩ => by cases eq; exact h⟩
  | _ => exact ⟨nofun, fun ⟨_, c, _⟩ => nomatch c⟩

theorem ownsOrphan_iff (tags : Vector TagState 128) (f : FeedId) :
    ownsOrphan tags f = true ↔ ∃ u : Tag, ∃ i, tags[u] = .orphaned i ∧ i.source = .feed f := by
  simp only [ownsOrphan, List.any_eq_true, List.mem_finRange, true_and, orphanOf_iff]

/-- Settles O51: RESTART FEED by the feed's state, its orphans and its stale word. -/
theorem restartFeed : Obligations.RestartFeed := by
  unfold Obligations.RestartFeed
  intro s c rest f runs field x owns running
  have queue := runs.queue
  obtain ⟨normal, -⟩ := id runs
  have step : exec .restartFeed s = .next (doRestart f c s) := congrArg Host.Outcome.next
    ((runHead_eq runs (hasOpcode_eq runs rfl) _).trans (onFeed_eq field _ s))
  have owns_iff := ownsOrphan_iff s.tags f
  have free : ¬ owns → ownsOrphan s.tags f = false := fun h => eq_false_of_ne_true fun c => h (owns_iff.mp c)
  rw [step]
  unfold doRestart
  refine ⟨fun busy => ?_, fun faulted clear fresh => ?_, fun faulted clear stale none => ?_⟩
  · split
    · rename_i faulted
      rw [if_pos (owns_iff.mpr (busy.resolve_left fun h => h faulted))]
      exact next_complete queue .busy 0
    all_goals exact next_complete queue .busy 0
  · rw [faulted]
    simp only [free clear, fresh, Bool.false_eq_true, if_false, x]
    exact next_complete (u := s.setFeed f running) queue .done 0
  · have queued : queueWord (.publish f) (s.setFeed f running) = { s.setFeed f
          { running with publisher := { running.publisher with word := .queued } } with
        insQ := s.insQ ++ [WordId.entry (.publish f) s.nextAge s], nextAge := s.nextAge + 1 } := by
      have count : WordId.entry (.publish f) s.nextAge (s.setFeed f running) = WordId.entry (.publish f) s.nextAge s := by
        simp only [WordId.entry, State.feed_setFeed_self]
        rfl
      rw [queueWord_eq (s := s.setFeed f running) normal fun e he =>
        eq_false_of_ne_true fun own => none e he ((Machine.owns_iff (.publish f) e).mp own), State.setFeed_nextAge,
        State.setFeed_insQ, count]
      have feed : State.feed { s.setFeed f running with
          insQ := s.insQ ++ [WordId.entry (.publish f) s.nextAge s], nextAge := s.nextAge + 1 } f = running :=
        State.feed_setFeed_self s f running
      simp only [setWord, State.modFeed, feed]
      exact congrArg (fun t : State => { t with
        insQ := s.insQ ++ [WordId.entry (.publish f) s.nextAge s], nextAge := s.nextAge + 1 }) (State.setFeed_setFeed s f _ _)
    rw [faulted]
    simp only [free clear, Bool.false_eq_true, if_false, show (s.feed f).publisher.stale = true from stale, if_true]
    refine (congrArg (fun t => Host.Outcome.next (complete c .done 0 t)) queued).trans ?_
    exact next_complete (u := { s.setFeed f { running with publisher := { running.publisher with word := .queued } } with
      insQ := s.insQ ++ [WordId.entry (.publish f) s.nextAge s], nextAge := s.nextAge + 1 }) queue .done 0

/-! ### REPORT FEED -/

/-- The code of a feed's state, as a number (11.2). -/
def feedStateCode : FeedState → Nat
  | .vacant => 0
  | .defined => 1
  | .active => 2
  | .suspended => 3
  | .draining => 4
  | .faulted => 5

theorem feedState_code (x : FeedState) : x.code = BitVec.ofNat 8 (feedStateCode x) := by cases x <;> rfl

/-- The code of a presence, as a number (11.2). -/
def presenceCode : Presence → Nat
  | .awaiting => 0
  | .present => 1
  | .absent => 2

theorem presence_code (x : Presence) : x.code = BitVec.ofNat 8 (presenceCode x) := by cases x <;> rfl

/-- The first cause of a fault word that may be absent, as a number (11.2). -/
def faultCode : Option FaultCause → Nat
  | none => 0
  | some .browseWriteFailed => 1
  | some .publishWriteFailed => 2
  | some .noLock => 3

theorem first_code (c : FaultCause) : c.code = BitVec.ofNat 8 (faultCode (some c)) := by cases c <;> rfl

theorem statusBytes_layout (f : FeedId) (time : Time) (x : Feed) : statusBytes f time x = layout [
    (1, f.val), (1, feedStateCode x.life.state), (1, presenceCode x.life.presence), (1, x.frame.records.length),
    (1, faultCode (x.life.fault.map FaultWord.first)), (1, if x.life.fault.any FaultWord.furtherBrowse then 1 else 0),
    (1, x.params.tag.toNat), (1, x.params.decimation), (8, time.toNat), (8, x.life.lastArrival.toNat),
    (8, x.params.ingestBase.toNat), (4, x.params.ingestSize), (4, x.params.slotSize), (8, x.params.browseBase.toNat),
    (2, x.params.slotCount), (1, x.params.rateCode), (1, if x.params.legalClamp then 1 else 0), (1, x.params.priority),
    (1, 0), (2, x.params.lossTimeout), (4, x.publisher.assigned.toNat), (4, x.publisher.published.toNat),
    (4, x.publisher.released.toNat), (4, x.frame.nextSerial.toNat), (4, x.life.counters.framesOpened),
    (4, x.life.counters.framesPublished), (4, x.life.counters.browseAbsent), (4, x.life.counters.breaks),
    (4, x.life.counters.headerRejects), (4, x.life.counters.tapMisses), (4, x.life.counters.strayPackets),
    (4, x.life.counters.sequenceGaps), (4, x.life.counters.untrackedFrames), (4, x.life.counters.badReleases),
    (16, 0)] := by
  cases fault : x.life.fault with
  | none =>
    simp only [statusBytes, fault, layout, List.flatMap_cons, List.flatMap_nil, leBytes_one, leBytes_zero_value,
      ofNat_toNat_byte, feedByte, feedState_code, presence_code, boolByte_eq, Counters.list, addrBytes, List.cons_append,
      List.nil_append, List.append_assoc, List.append_nil]
    rfl
  | some w =>
    simp only [statusBytes, fault, layout, List.flatMap_cons, List.flatMap_nil, leBytes_one, leBytes_zero_value,
      ofNat_toNat_byte, feedByte, feedState_code, presence_code, first_code, boolByte_eq, Counters.list, addrBytes,
      List.cons_append, List.nil_append, List.append_assoc, List.append_nil]
    rfl

theorem stageReport_eq {s : State} {c : Command} {rest : List Command} (phase : s.commands.phase = .reported)
    (queue : s.commands.queue = c :: rest) :
    stageReport s = if s.normal && s.noticeRoom then complete c .done 0 s else s := by
  unfold stageReport
  rw [phase, queue]

/-- Settles O52: the execution, the answer, the staging of the notice, and the record. -/
theorem reportFeed : Obligations.ReportFeed := by
  unfold Obligations.ReportFeed
  refine ⟨fun s c rest => ⟨fun f runs field none => ?_, fun e t flight normal kind source phase => ?_,
    fun phase queue normal => ?_⟩, ?_⟩
  · obtain ⟨normal, -⟩ := id runs
    have made := makeEntry_eq (d := statusDraft f s) normal (quotaRoom_of_none none)
    have step : exec .reportFeed s = .next (doReport f c s) := congrArg Host.Outcome.next
      ((runHead_eq runs (hasOpcode_eq runs rfl) _).trans (onFeed_eq field _ s))
    rw [step]
    simp only [doReport, made]
    rfl
  · rw [answerOk_flight flight normal]
    unfold answerOk
    rw [kind, source]
    refine congrArg Host.Outcome.next ?_
    unfold reportAnswered
    rw [show (s.freed e t).commands.phase = .reporting from phase]
    rfl
  · have normal' : s.normal = true := decide_eq_true normal
    have step : exec .reportNoticeStage s = .next (stageReport s) := rfl
    rw [step, stageReport_eq phase queue, normal', Bool.true_and]
    refine ⟨fun room => ?_, fun full => ?_⟩
    · rw [State.noticeRoom, if_pos (decide_eq_true room)]
      exact next_complete queue .done 0
    · rw [State.noticeRoom, if_neg]
      rw [decide_eq_true_eq]
      exact Nat.not_lt.mpr full
  · intro f time x p defn k
    have params : x.params = p := by
      rw [Feed.params]
      obtain defn | ⟨defn, rfl⟩ := defn <;> rw [defn] <;> rfl
    have laid := statusBytes_layout f time x
    rw [params] at laid
    exact recordHolds_layout _ laid (by simp) fun q hq => hq

/-! ### RESET ENGINE -/

/-- The write test where it passes and the queue has no entry. -/
theorem State.noticeTested_of_empty {u : State} {n : Notice} {rest : List Notice} (staging : u.notices.staging = n :: rest)
    (queue : u.insQ = []) (below : (u.notices.produced - u.notices.consumed).toNat < 64) (normal : u.engine = .normal) :
    u.noticeTested = { u with
      insQ := [{
        source := .notice, kind := .notice, row := none,
        addr := BitVec.ofNat 40 (u.straps.toNat * 4294967296 + (0x1000 + 32 * (u.notices.produced.toNat % 64))),
        length := 32, lanes := .all, data := .fixed n.bytes, attempt := 1, age := u.nextAge, state := .queued }],
      nextAge := u.nextAge + 1 } := by
  rw [State.noticeTested, staging]
  dsimp only
  rw [queue, if_pos ⟨fun e he => absurd he List.not_mem_nil, below, normal⟩]
  rfl

/-- Settles O53: the reset at the head, block by block. -/
theorem Settled.resetEngine : Obligations.ResetEngine := by
  unfold Obligations.ResetEngine
  intro s c rest phase queue code agree done
  have names : hasOpcode .resetEngine c = true := by
    rw [hasOpcode, Command.opcode, code]
    rfl
  have step : exec .resetEngine s = .next (Machine.resetEngine c s) := by
    simp only [exec, execResetEngine, phase, queue, names, if_true]
  have tested : Machine.resetEngine c s = { clearBlocks s with
      insQ := [{
        source := .notice, kind := .notice, row := none,
        addr := BitVec.ofNat 40 (s.straps.toNat * 4294967296 + 0x1000), length := 32, lanes := .all,
        data := .fixed done.bytes, attempt := 1, age := 0, state := .queued }],
      nextAge := 1,
      notices := { staging := [done], produced := 0, consumed := 0, lost := 0, word := .none } } := by
    have count : s.commands.queue.length - 1 = rest.length := by rw [queue]; rfl
    have emptied : (clearBlocks s).insQ = [] := by simp [clearBlocks, withdraw]
    have staged : (clearBlocks s).noticeStaged (.commandDone c.serial c.opcodeByte c.feedField .done rest.length)
        = State.noticeTested { clearBlocks s with notices := { NoticeWriter.reset with staging := [done] } } := by
      rw [code]
      rfl
    rw [Machine.resetEngine, stageNotice_eq, count, staged]
    exact State.noticeTested_of_empty (u := { clearBlocks s with notices := { NoticeWriter.reset with staging := [done] } })
      rfl emptied (show ((0 : Count) - 0).toNat < 64 by decide) rfl
  rw [step, tested]
  refine ⟨_, rfl, rfl, rfl, rfl, rfl, rfl, rfl, rfl, rfl, rfl, rfl, rfl, rfl, rfl, fun u => ?_, fun f => ?_⟩
  · show match s.tags[u] with
      | .insertion => ∃ e ∈ s.insQ, e.state = .issued u ∧ (clearBlocks s).tags[u] = .orphaned ⟨e.source, e.kind, e.row⟩
      | .free | .forward _ _ | .orphaned _ => (clearBlocks s).tags[u] = s.tags[u]
    obtain ⟨issued_iff, -⟩ := agree
    have all : s.insQ.filter (fun _ => true) = s.insQ := List.filter_true _
    obtain ⟨same, none⟩ | ⟨e, he, issued, orphaned⟩ := foldl_orphanTag_cases (s.insQ.filter fun _ => true) s.tags u
    · have notInsertion : s.tags[u] ≠ .insertion := fun c => by
        obtain ⟨e, he, issued⟩ := (issued_iff u).mp c
        exact none e (all.symm ▸ he) issued
      split
      · exact absurd ‹_› notInsertion
      all_goals exact same
    · rw [all] at he
      rw [(issued_iff u).mpr ⟨e, he, issued⟩]
      exact ⟨e, he, issued, orphaned⟩
  · exact clearBlocks_feed s f

/-! ### The drain exit -/

theorem drained_iff (f : FeedId) (s : State) : drained f s = true ↔
    (s.feed f).life.state = .draining ∧ (s.feed f).parse.state = .idle ∧ (s.feed f).frame.records = []
      ∧ (s.feed f).rows.items = [] ∧ (∀ e ∈ s.insQ, e.source ≠ .feed f)
      ∧ (∀ u : Tag, ∀ i : EntryIdent, s.tags[u] = .orphaned i → i.source ≠ .feed f)
      ∧ s.notices.staging.length < 8 ∧ s.engine = .normal := by
  have owns := not_eq_true_iff (ownsOrphan_iff s.tags f)
  push Not at owns
  simp only [drained, Bool.and_eq_true, owns, decide_eq_true_eq, Feed.running, List.isEmpty_iff,
    List.all_eq_true, State.noticeRoom, State.normal, Config.noticeCapacity, and_assoc]
  simp

/-- Settles O55: the drain exit, where a DRAINING feed has nothing left in flight, and nothing else. -/
theorem drainExit : Obligations.DrainExit := by
  unfold Obligations.DrainExit
  intro f s x finished
  refine ⟨fun d done drain => ?_, fun undone => ?_⟩
  · have left : drained f s = true := (drained_iff f s).mpr done
    simp only [exec, execDrainExit, left, if_true]
    unfold exitDrain
    rw [show (s.feed f).life.drain = some d from drain]
    exact congrArg Host.Outcome.next (stageNotice_eq _ _)
  · have stays : drained f s = false := eq_false_of_ne_true fun c => undone ((drained_iff f s).mp c)
    simp only [exec, execDrainExit, stays, Bool.false_eq_true, if_false]

/-! ### A row part's entry -/

/-- The first of a list that passes a test, none before it passing it. -/
theorem find?_append_cons {α : Type} {t : α → Bool} {before after : List α} {p : α} (none : ∀ q ∈ before, t q = false)
    (passes : t p = true) : (before ++ p :: after).find? t = some p := by
  rw [List.find?_append, List.find?_eq_none.mpr fun q hq => by rw [none q hq]; nofun, Option.none_or,
    List.find?_cons_of_pos passes]

/-- The oldest WAITING part is the first of the first item that has one. -/
theorem oldestWaiting_eq {pre post : List RowItem} {i : RowItem} {before after : List RowPart} {p : RowPart}
    (items : ∀ j ∈ pre, ∀ q ∈ j.parts, q.state ≠ .waiting) (parts : i.parts = before ++ p :: after)
    (none : ∀ q ∈ before, q.state ≠ .waiting) (waiting : p.state = .waiting) :
    oldestWaiting (pre ++ i :: post) = some (i, p) := by
  induction pre with
  | nil =>
    rw [List.nil_append, oldestWaiting, parts,
      find?_append_cons (fun q hq => decide_eq_false (none q hq)) (decide_eq_true waiting)]
  | cons j pre ih =>
    rw [List.cons_append, oldestWaiting, List.find?_eq_none.mpr fun q hq => by
      rw [decide_eq_true_eq]; exact items j List.mem_cons_self q hq]
    exact ih fun k hk => items k (List.mem_cons_of_mem _ hk)

/-- The row store with one part's state replaced, item by item. -/
theorem markPart_eq (r : RowStore) (ref : RowRef) (v : PartState) : r.markPart ref v = { r with
    items := r.items.map fun i => if i.ident = ref.item then
      { i with parts := i.parts.map fun p => if p.index = ref.part then { p with state := v } else p } else i } := by
  simp only [RowStore.markPart, RowRef.names, decide_eq_true_eq]
  rfl

/-- Settles O41: the entry of the oldest WAITING part. -/
theorem rowPartQueued : Obligations.RowPartQueued := by
  unfold Obligations.RowPartQueued
  refine ⟨?_, markPart_eq⟩
  intro f s pre post i before after p normal room items passed parts none waiting
  have oldest : oldestWaiting (s.feed f).rows.items = some (i, p) := by
    rw [items]
    exact oldestWaiting_eq passed parts none waiting
  have roomy : quotaRoom s.insQ (.feed f) .row = true := decide_eq_true room
  have normal' : s.normal = true := decide_eq_true normal
  have made := makeEntry_eq (d := rowDraft f i p) normal roomy
  refine congrArg Host.Outcome.next ?_
  unfold queueRowPart
  rw [oldest]
  simp only [normal', roomy, Bool.and_self, if_true, made]
  rfl

end Sys2Proof.Machine
end

section
/-! The discard of a feed's records and writes: RETIRE FEED NOW, a feed fault, and the engine's failure (chapters 3.4, 4.2,
4.3, 4.7, 6.5, 6.6, 8.5, 9.6). -/

namespace Sys2Proof.Machine

/-! ### Row writes dealt with -/

/-- An item without the part that failed for good (log 18). -/
def RowItem.without (lost : Option RowRef) (i : RowItem) : RowItem :=
  match lost with
  | none => i
  | some ref => if ref.names i then i.dropPart ref.part else i

theorem RowItem.without_kept (lost : Option RowRef) (i : RowItem) : ∃ parts, i.without lost = { i with parts := parts } ∧
    parts = i.parts.filter fun p => decide (lost ≠ some { item := i.ident, part := p.index }) := by
  cases lost with
  | none => exact ⟨i.parts, rfl, by simp⟩
  | some ref =>
    by_cases here : i.ident = ref.item
    · refine ⟨_, if_pos (decide_eq_true here), List.filter_congr fun p _ => ?_⟩
      obtain ⟨item, part⟩ := ref
      simp only [here, ne_eq, Option.some.injEq, RowRef.mk.injEq, true_and, eq_comm]
    · refine ⟨i.parts, if_neg (by rw [RowRef.names, decide_eq_true_eq]; exact here), ?_⟩
      refine (List.filter_eq_self.mpr fun p _ => ?_).symm
      rw [decide_eq_true_eq]
      exact fun c => here (congrArg RowRef.item (Option.some.inj c)).symm

/-- The parts dealt with, one by one (R74). -/
theorem filterMap_dealPart (l : List RowPart) : l.filterMap dealPart =
    (l.filter fun p => decide (p.state ≠ .waiting ∧ p.state ≠ .queued)).map
      fun p => if p.state = .issued then { p with state := .orphaned } else p := by
  induction l with
  | nil => rfl
  | cons p l ih => cases state : p.state <;> simp [dealPart, state, ih]

/-- The parts left of an item dealt with after its failed part has gone. -/
theorem dealItem_parts (lost : Option RowRef) (i : RowItem) : (dealItem (i.without lost)).parts = i.partsDealt lost := by
  obtain ⟨parts, eq, kept⟩ := i.without_kept lost
  show (i.without lost).parts.filterMap dealPart = _
  rw [eq, filterMap_dealPart, kept, List.filter_filter, RowItem.partsDealt]
  refine congrArg _ (List.filter_congr fun p _ => ?_)
  simp only [ne_eq, ← Bool.decide_and, and_assoc]

theorem state_of_mem_dealt {i : RowItem} {lost : Option RowRef} {p : RowPart} (h : p ∈ i.partsDealt lost) :
    p.state = .answered ∨ p.state = .orphaned := by
  obtain ⟨q, hq, rfl⟩ := List.mem_map.mp h
  have := of_decide_eq_true (List.mem_filter.mp hq).2
  obtain ⟨notWaiting, notQueued, -⟩ := this
  cases state : q.state <;> simp_all

/-- An item with the standing it has after a deal: ORPHANED where a part is. -/
theorem dealItem_eq {lost : Option RowRef} {i : RowItem} (stays : (dealItem (i.without lost)).ended = false) :
    dealItem (i.without lost) = { i with parts := i.partsDealt lost, standing := .orphaned } := by
  have parts := dealItem_parts lost i
  have some : (i.partsDealt lost).any (fun p => decide (p.state = .orphaned)) = true := by
    rw [RowItem.ended, parts, List.all_eq_false] at stays
    obtain ⟨p, hp, unanswered⟩ := stays
    refine List.any_eq_true.mpr ⟨p, hp, decide_eq_true ((state_of_mem_dealt hp).resolve_left fun c => unanswered ?_)⟩
    exact decide_eq_true c
  obtain ⟨left, eq, -⟩ := i.without_kept lost
  rw [show dealItem (i.without lost) = { i.without lost with
      parts := (dealItem (i.without lost)).parts,
      standing := if (dealItem (i.without lost)).parts.any fun p => decide (p.state = .orphaned) then .orphaned
        else (i.without lost).standing } from rfl, parts, if_pos some, eq]

/-- The items that `which` names dealt with, after a failed part has gone (R69, R74). -/
theorem sweep_deals (which : RowItem → Bool) (lost : Option RowRef) (r : RowStore) :
    r.deals which lost (RowStore.sweep { r with
      items := r.items.map fun i => if which i then dealItem (i.without lost) else i }) := by
  refine leaves_congr (fun i => ?_) (fun i stays => ?_) (sweep_leaves r fun i => ?_)
  · by_cases named : which i = true
    · rw [if_pos named, RowItem.ended, dealItem_parts, RowItem.dealt, if_pos named]
    · rw [if_neg named, RowItem.dealt, if_neg named]
      rfl
  · by_cases named : which i = true
    · rw [if_pos named] at stays ⊢
      rw [dealItem_eq stays, RowItem.dealt, if_pos named]
    · rw [if_neg named, RowItem.dealt, if_neg named]
  · obtain ⟨parts, eq, -⟩ := i.without_kept lost
    split
    · rw [dealItem, eq]
    · rfl

/-- A discard deals with every item (R74). -/
theorem discard_deals (r : RowStore) : r.deals (fun _ => true) none (r.change (fun _ => true) dealItem) :=
  sweep_deals (fun _ => true) none r

/-- A discard after a failed part has gone deals with every item (R74, log 18). -/
theorem discard_deals_without (lost : Option RowRef) (r : RowStore) : r.deals (fun _ => true) lost
    (RowStore.change (fun _ => true) dealItem { r with items := r.items.map (RowItem.without lost) }) := by
  rw [RowStore.change, List.map_map]
  exact sweep_deals (fun _ => true) lost r

/-! ### Tags orphaned -/

/-- The tag of a withdrawn entry that is alone on it holds its identity. -/
theorem orphaned_tag {q : List InsEntry} {which : InsEntry → Bool} (tags : Vector TagState 128) {e : InsEntry} {v : Tag}
    (mem : e ∈ q) (named : which e = true) (issued : e.state = .issued v) (alone : ∀ z ∈ q, z.state = .issued v → z = e) :
    ((q.filter which).foldl orphanTag tags)[v] = .orphaned e.ident := by
  obtain ⟨-, none⟩ | ⟨z, hz, here, tag⟩ := foldl_orphanTag_cases (q.filter which) tags v
  · exact absurd issued (none e (List.mem_filter.mpr ⟨mem, named⟩))
  · rwa [alone z (List.mem_filter.mp hz).1 here] at tag

/-- The tag of a withdrawn entry holds the identity of one. -/
theorem orphaned_some {q : List InsEntry} {which : InsEntry → Bool} (tags : Vector TagState 128) {e : InsEntry} {v : Tag}
    (mem : e ∈ q) (named : which e = true) (issued : e.state = .issued v) :
    ∃ z, which z = true ∧ ((q.filter which).foldl orphanTag tags)[v] = .orphaned z.ident := by
  obtain ⟨-, none⟩ | ⟨z, hz, -, tag⟩ := foldl_orphanTag_cases (q.filter which) tags v
  · exact absurd issued (none e (List.mem_filter.mpr ⟨mem, named⟩))
  · exact ⟨z, (List.mem_filter.mp hz).2, tag⟩

/-- A tag that no withdrawn entry is on is as it was. -/
theorem unorphaned_tag {q : List InsEntry} {which : InsEntry → Bool} (tags : Vector TagState 128) {v : Tag}
    (none : ∀ e ∈ q, which e = true → e.state ≠ .issued v) : ((q.filter which).foldl orphanTag tags)[v] = tags[v] := by
  obtain ⟨same, -⟩ | ⟨z, hz, here, -⟩ := foldl_orphanTag_cases (q.filter which) tags v
  · exact same
  · obtain ⟨mem, named⟩ := List.mem_filter.mp hz
    exact absurd here (none z mem named)

/-! ### RETIRE FEED NOW -/

/-- What the retirement leaves of its feed (R121). -/
theorem retireNow_eq (f : FeedId) (s : State) : retireNow f s =
    { s.setFeed f (discardFeed (hasPublishEntry f s.insQ) (idleReducer (idleFeed (s.feed f)))) with
      insQ := s.insQ.filter fun e => decide (e.source ≠ .feed f),
      tags := (s.insQ.filter fun e => decide (e.source = .feed f)).foldl orphanTag s.tags,
      tapQ := s.tapQ.filter fun e => decide (e.feed ≠ f) } := by
  have feed : ((stopParser f s).modFeed f idleReducer).feed f = idleReducer (idleFeed (s.feed f)) := by
    rw [State.feed_modFeed_self, stopParser_feed_self]
  have queue : (fun e : InsEntry => !decide (e.source = .feed f)) = fun e => decide (e.source ≠ .feed f) :=
    funext fun e => (decide_not ..).symm
  rw [retireNow, discardAll_eq, feed, State.modFeed, stopParser_feed_self, stopParser_eq, queue]
  simp only [State.setFeed, Vector.set_set]

/-- What RETIRE FEED NOW leaves of its feed (R119, R121). -/
def retiredFeed (serial : BitVec 16) (publishing : Bool) (x : Feed) : Feed :=
  discardFeed publishing (idleReducer (idleFeed (startDrain serial x.frame.records.length x)))

theorem retiredFeed_life (serial : BitVec 16) (b : Bool) (x : Feed) : (retiredFeed serial b x).life =
    { x.life with state := .draining, drain := some { serial := serial, discarded := x.frame.records.length } } :=
  idleFeed_life _
theorem retiredFeed_parse (serial : BitVec 16) (b : Bool) (x : Feed) : (retiredFeed serial b x).parse =
    { x.parse with state := .idle, residue := 0, packet := none, budget := 0 } := idleFeed_parse _
theorem retiredFeed_frame (serial : BitVec 16) (b : Bool) (x : Feed) : (retiredFeed serial b x).frame =
    { x.frame with records := [], openFrame := .none, retirePending := false } := by
  simp [retiredFeed, discardFeed, idleReducer, startDrain]
theorem retiredFeed_publisher (serial : BitVec 16) (b : Bool) (x : Feed) : (retiredFeed serial b x).publisher =
    { x.publisher with assigned := x.publisher.published, word := .none, stale := x.publisher.stale || b } := by
  simp [retiredFeed, discardFeed, idleReducer, startDrain]
theorem retiredFeed_rows (serial : BitVec 16) (b : Bool) (x : Feed) :
    (retiredFeed serial b x).rows = x.rows.change (fun _ => true) dealItem := by
  simp [retiredFeed, discardFeed, idleReducer, startDrain]

/-- Settles O50: the retirement of a running feed in one event. -/
theorem Settled.retireNow : Obligations.RetireNow := by
  unfold Obligations.RetireNow
  intro s c rest f runs field mode state x
  have stepped : exec .retireFeedNow s = .next (popHead (Machine.retireNow f
      (s.setFeed f (startDrain c.serial x.frame.records.length x)))) := by
    rw [exec_retire runs field (.inr ⟨rfl, by rw [mode]; nofun⟩), doRetire, mode]
    dsimp only
    unfold retire
    obtain state | state := state <;> rw [state] <;> rfl
  have left : Machine.retireNow f (s.setFeed f (startDrain c.serial x.frame.records.length x))
      = { s.setFeed f (retiredFeed c.serial (hasPublishEntry f s.insQ) x) with
        insQ := s.insQ.filter fun e => decide (e.source ≠ .feed f),
        tags := (s.insQ.filter fun e => decide (e.source = .feed f)).foldl orphanTag s.tags,
        tapQ := s.tapQ.filter fun e => decide (e.feed ≠ f) } := by
    rw [retireNow_eq, State.feed_setFeed_self, State.setFeed_setFeed]
    rfl
  rw [stepped, left]
  refine ⟨_, rfl, ?_⟩
  have feed : State.feed (popHead { s.setFeed f (retiredFeed c.serial (hasPublishEntry f s.insQ) x) with
        insQ := s.insQ.filter fun e => decide (e.source ≠ .feed f),
        tags := (s.insQ.filter fun e => decide (e.source = .feed f)).foldl orphanTag s.tags,
        tapQ := s.tapQ.filter fun e => decide (e.feed ≠ f) }) f
      = retiredFeed c.serial (hasPublishEntry f s.insQ) x := State.feed_setFeed_self s f _
  rw [feed, retiredFeed_life, retiredFeed_parse, retiredFeed_frame, retiredFeed_publisher, retiredFeed_rows]
  refine ⟨rfl, rfl, rfl, rfl, rfl, rfl, rfl, rfl, discard_deals x.rows, rfl, ?_, ?_, ?_, rfl, rfl, ?_, rfl, ?_⟩
  · exact fun e he u source issued alone => orphaned_tag s.tags he (decide_eq_true source) issued alone
  · intro e he u source issued
    obtain ⟨z, named, tag⟩ := orphaned_some (which := fun e => decide (e.source = .feed f)) s.tags he (decide_eq_true source)
      issued
    exact ⟨z.ident, tag, of_decide_eq_true named⟩
  · exact fun u none => unorphaned_tag s.tags fun e he named => none e he (of_decide_eq_true named)
  · show ({ queue := s.commands.queue.tail, phase := .ready } : CommandUnit) = _
    rw [runs.queue]
    rfl
  · exact fun g other => State.feed_setFeed_ne s _ other

/-! ### A feed fault -/

/-- The part of an entry that has failed for good, where it is a row part's (log 18). -/
def InsEntry.lostPart (e : InsEntry) : Option RowRef := if e.kind = .row then e.row else none

/-- The row store after an entry of the feed has failed for good: without the failed part. -/
theorem forgetFailed_rows {e : InsEntry} {f : FeedId} (s : State) (source : e.source = .feed f)
    (kind : kindFits e.source e.kind = true) : ((forgetFailed e s).feed f).rows =
      { (s.feed f).rows with items := (s.feed f).rows.items.map (RowItem.without e.lostPart) } := by
  have same : (s.feed f).rows.items.map (RowItem.without none) = (s.feed f).rows.items := List.map_id _
  rw [source] at kind
  cases given : e.kind with
  | row =>
    cases part : e.row with
    | none => simp only [forgetFailed, InsEntry.lostPart, given, source, part, if_true, same]
    | some ref =>
      simp only [forgetFailed, InsEntry.lostPart, given, source, part, if_true, State.feed_modFeed_self]
      rfl
  | header => simp [forgetFailed, InsEntry.lostPart, given, same]
  | publishWord =>
    simp only [forgetFailed, InsEntry.lostPart, given, source, setWord, State.feed_modFeed_self]
    simp [same]
  | _ => rw [given] at kind; cases kind

/-- Settles O19: the fault of one feed, field by field. -/
theorem finalFailureFaultsFeed : Obligations.FinalFailureFaultsFeed := by
  unfold Obligations.FinalFailureFaultsFeed
  intro s e t f flight normal attempts source kind x cause gone told
  obtain ⟨insertion, mem, issued, alone⟩ := id flight
  have normal' : State.normal (s.setTag t .free) = true := decide_eq_true normal
  obtain ⟨items, word, forgotten⟩ := forgetFailed_feed (s.freed e t) source kind
  have rows := forgetFailed_rows (s.freed e t) source kind
  rw [forgotten, State.feed_setFeed_self] at rows
  have stepped : exec (.insertionAnswer t .error) s = .next (feedFault f cause (forgetFailed e (s.freed e t))) := by
    rw [execInsertionAnswer_eq .error flight]
    simp only [answerEntry, normal', if_true, attempts, Config.attemptLimit, dropEntry_setTag, routeFailure, source]
    rfl
  have queue : (s.freed e t).insQ.filter (fun y => !decide (y.source = .feed f))
      = s.insQ.filter fun y => decide (y.source ≠ .feed f) := by
    refine List.filter_filter.trans (List.filter_congr fun y hy => ?_)
    by_cases mine : y.source = .feed f
    · simp [mine]
    · have other : y.age ≠ e.age := fun c => mine (alone y hy (.inl c) ▸ source)
      simp [mine, other]
  have withdrawn : (s.freed e t).insQ.filter (fun y => decide (y.source = .feed f))
      = s.insQ.filter fun y => decide (y.source = .feed f) && decide (y.age ≠ e.age) := List.filter_filter
  have publishing : hasPublishEntry f (s.freed e t).insQ = s.insQ.any fun y =>
      decide (y ≠ e) && decide (y.source = .feed f) && decide (y.kind = .publishWord) := by
    have other : ∀ y ∈ s.insQ, y.age ≠ e.age ↔ y ≠ e := fun y hy =>
      ⟨fun age same => age (same ▸ rfl), fun ne age => ne (alone y hy (.inl age))⟩
    refine List.any_filter.trans (Bool.eq_iff_iff.mpr ?_)
    simp only [List.any_eq_true, Bool.and_eq_true, decide_eq_true_eq, owns_iff]
    exact exists_congr fun y => and_congr_right fun hy => by rw [other y hy, and_assoc]; rfl
  let y : Feed := { x with rows := { x.rows with items := items }, publisher := { x.publisher with word := word } }
  let faulted : State := { s.setFeed f (faultedFeed cause (s.insQ.any fun y =>
      decide (y ≠ e) && decide (y.source = .feed f) && decide (y.kind = .publishWord)) y) with
    insQ := s.insQ.filter fun y => decide (y.source ≠ .feed f),
    tags := (s.insQ.filter fun y => decide (y.source = .feed f) && decide (y.age ≠ e.age)).foldl orphanTag
      (s.tags.set t .free),
    tapQ := s.tapQ.filter fun y => decide (y.feed ≠ f) }
  have left : feedFault f cause (forgetFailed e (s.freed e t)) = stageEvent (.feedFault f cause gone) faulted := by
    rw [forgotten, feedFault_eq, State.feed_setFeed_self, faultedState, State.feed_setFeed_self, State.setFeed_setFeed,
      State.setFeed_insQ, publishing, queue, withdrawn]
    rfl
  have feed : (stageEvent (.feedFault f cause gone) faulted).feed f = faultedFeed cause (s.insQ.any fun y =>
      decide (y ≠ e) && decide (y.source = .feed f) && decide (y.kind = .publishWord)) y :=
    (stageEvent_feed ..).trans (State.feed_setFeed_self s f _)
  have alike : ToldAlike { s with insQ := s.insQ.filter fun y => decide (y.source ≠ .feed f) } faulted :=
    ⟨rfl, rfl, rfl, rfl, rfl, rfl⟩
  obtain ⟨notices, told_queue, age, -, -, -⟩ := alike.stageEvent (.feedFault f cause gone)
  have tags : (stageEvent (.feedFault f cause gone) faulted).tags
      = (s.insQ.filter fun y => decide (y.source = .feed f) && decide (y.age ≠ e.age)).foldl orphanTag
        (s.tags.set t .free) := stageEvent_tags ..
  rw [stepped, left]
  refine ⟨_, rfl, ?_⟩
  rw [feed, tags, faultedFeed_life, faultedFeed_frame, faultedFeed_parse, faultedFeed_publisher, faultedFeed_rows,
    faultedFeed_missPending, faultedFeed_reducerMode]
  have named : ∀ z ∈ s.insQ, z ≠ e → z.source = .feed f →
      (decide (z.source = .feed f) && decide (z.age ≠ e.age)) = true := fun z hz ne mine => by
    simpa [mine] using fun c => ne (alone z hz (.inl c))
  refine ⟨rfl, fun state => ?_, fun state => ⟨?_, fun d drain => ?_⟩, rfl, rfl, rfl, rfl, rfl, rfl, rfl, rfl, ?_, told_queue,
    age, notices, ?_, fun z hz v ne mine on alone' => ?_, fun v ne none => ?_, stageEvent_tapQ .., fun g other => ?_, ?_,
    stageEvent_credit .., stageEvent_catalogue .., stageEvent_commands .., stageEvent_forwardQ ..⟩
  · show (faultLife cause _ x.life).state = _
    obtain state | state := state <;> simp only [faultLife, show x.life.state = _ from state]
  · simp only [faultLife, show y.life.state = _ from state]
  · simp only [faultLife, show y.life.state = _ from state, show y.life.drain = _ from drain]
    rfl
  · show x.rows.deals _ _ (RowStore.change _ dealItem { x.rows with items := items })
    rw [show ({ x.rows with items := items } : RowStore) = _ from rows]
    exact discard_deals_without e.lostPart x.rows
  · rw [unorphaned_tag (s.tags.set t .free) fun z hz c on => ?_, getElem_set, if_pos rfl]
    have := alone z hz (.inr on)
    simp [this] at c
  · exact orphaned_tag _ hz (named z hz ne mine) on alone'
  · rw [unorphaned_tag (s.tags.set t .free) fun z hz c => ?_, getElem_set, if_neg fun c => ne c.symm]
    exact none z hz (by simp at c; exact c.1)
  · exact (stageEvent_feed ..).trans (State.feed_setFeed_ne s _ other)
  · exact (stageEvent_engine ..).trans normal

/-! ### The engine's failure -/

/-- What a failed control-side entry leaves with its source: no batch in flight, and its word NONE. -/
theorem forgetFailed_control {e : InsEntry} (s : State)
    (source : e.source = .catalogue ∨ e.source = .notice ∨ e.source = .report) : forgetFailed e s = { s with
      catalogue := { s.catalogue with
        batch := if e.kind = .batch then none else s.catalogue.batch,
        word := if e.kind = .catalogueWord then .none else s.catalogue.word },
      notices := { s.notices with word := if e.kind = .noticeWord then .none else s.notices.word } } := by
  unfold forgetFailed
  obtain source | source | source := source <;> rw [source] <;> cases e.kind <;> rfl

/-- The row store when the engine fails: its QUEUED parts are dropped, and the items that ended leave (R69, R89). -/
theorem fail_leaves (r : RowStore) : r.leaves (fun i => i.parts.all fun p => decide (p.state = .answered ∨ p.state = .queued))
    (fun i => { i with parts := i.parts.filter fun p => decide (p.state ≠ .queued) })
    (r.change (fun _ => true) failItem) := by
  refine leaves_congr (fun i => ?_) (fun _ _ => rfl) (sweep_leaves r (g := failItem) fun _ => rfl)
  rw [RowItem.ended, failItem, List.all_filter]
  refine List.all_congr rfl fun p => ?_
  cases state : p.state <;> rfl

/-- The reducer of a feed after the engine's failure is IDLE (R66). -/
theorem failFeed_reducer (x : Feed) : (failFeed x).reducer = { x.reducer with
    mode := .idle, line := none, lineLuma := [], lineChroma := [], bandLuma := [], bandChroma := [], reference := none } := by
  have dropped : x.reducer.dropLine.leave = x.reducer.leave := by
    unfold Reducer.dropLine
    split <;> rfl
  have left : (failFeed x).reducer = (discardLine x).reducer.leave := rfl
  rw [left]
  obtain same | same := discardLine_cases x
  · rw [same]
    rfl
  · rw [same]
    exact dropped

/-- A feed after the engine's failure. -/
theorem failFeed_eq (x : Feed) : failFeed x = { x with
    parse := { x.parse with state := .idle, residue := 0, packet := none, budget := 0 },
    frame := { x.frame with retirePending := false }, missPending := false,
    reducer := { x.reducer with
      mode := .idle, line := none, lineLuma := [], lineChroma := [], bandLuma := [], bandChroma := [], reference := none },
    publisher := { x.publisher with word := if x.publisher.word = .queued then .none else x.publisher.word },
    rows := (failFeed x).rows } := by
  rw [← failFeed_parse, ← failFeed_frame, ← failFeed_reducer, ← failFeed_publisher]
  conv_rhs => rw [← failFeed_life x, ← failFeed_ingest x, ← failFeed_browse x, ← failFeed_missPending x]

/-- Settles O20: the engine's failure, block by block. -/
theorem finalFailureFailsEngine : Obligations.FinalFailureFailsEngine := by
  unfold Obligations.FinalFailureFailsEngine
  intro s e t flight normal attempts source left
  have normal' : State.normal (s.setTag t .free) = true := decide_eq_true normal
  have routed : ∀ u, routeFailure e u = enterFailed u := fun u => by
    unfold routeFailure
    obtain source | source | source := source <;> rw [source]
  have stepped : exec (.insertionAnswer t .error) s = .next (enterFailed (forgetFailed e (s.freed e t))) := by
    rw [execInsertionAnswer_eq .error flight]
    simp only [answerEntry, normal', if_true, attempts, Config.attemptLimit, dropEntry_setTag, routed]
    rfl
  rw [stepped, forgetFailed_control _ source]
  have queue : (s.freed e t).insQ.filter (fun x => !x.queued)
      = s.insQ.filter fun x => decide (x.age ≠ e.age) && decide (x.state ≠ .queued) := by
    refine List.filter_filter.trans (List.filter_congr fun x _ => ?_)
    rw [Bool.and_comm, InsEntry.queued, ← decide_not]
  have commands : failCommands s.commands = if s.commands.phase = .ready then s.commands
      else { queue := s.commands.queue.tail, phase := .ready } := by
    unfold failCommands
    cases s.commands.phase <;> rfl
  have word : ∀ (w : WordState) (kind : EntryKind), (if (if e.kind = kind then WordState.none else w) = .queued then .none
      else (if e.kind = kind then WordState.none else w)) = left w kind := fun w kind => by
    by_cases here : e.kind = kind <;> simp [left, here]
  have batch : (if (s.freed e t).insQ.filter (fun x => !x.queued) |>.any fun x => decide (x.kind = .batch) then
        (if e.kind = .batch then none else s.catalogue.batch) else none)
      = if e.kind ≠ .batch ∧ ∃ x ∈ s.insQ, x.age ≠ e.age ∧ x.kind = .batch ∧ x.state ≠ .queued then
          s.catalogue.batch else none := by
    have some : ((s.freed e t).insQ.filter (fun x => !x.queued)).any (fun x => decide (x.kind = .batch)) = true
        ↔ ∃ x ∈ s.insQ, x.age ≠ e.age ∧ x.kind = .batch ∧ x.state ≠ .queued := by
      rw [queue]
      simp only [List.any_filter, List.any_eq_true, Bool.and_eq_true, decide_eq_true_eq, and_assoc]
      exact exists_congr fun x => and_congr_right fun _ => and_congr_right fun _ => and_comm
    by_cases own : e.kind = .batch
    · simp [own]
    · simp only [own, if_false, some, ne_eq, not_false_eq_true, true_and]
  refine ⟨_, rfl, rfl, ?_, fun f => ⟨?_, ?_⟩⟩
  · rw [← queue, ← commands, ← batch, ← word, ← word]
    rfl
  · rw [enterFailed_feed]
    exact failFeed_eq (s.feed f)
  · rw [enterFailed_feed, failFeed_rows]
    exact fail_leaves _

end Sys2Proof.Machine
end

section
/-! The band reducer and the rows it hands to the row store (chapters 3.2 to 3.4, 4.1, 4.2). -/

namespace Sys2Proof.Machine

/-! ### The bytes and the parts of a row -/

/-- Luma and chroma of a row that is a whole number of chroma pairs fit its pitch. -/
theorem rowPitch_room {d w : Nat} (usable : d = 2 ∨ d = 4 ∨ d = 8) (whole : w % (2 * d) = 0) :
    w / d + w / d = 2 * w / d ∧ 2 * w / d ≤ rowPitch d w := by
  constructor
  · obtain rfl | rfl | rfl := usable <;> omega
  · rw [rowPitch, roundUp32]
    omega

theorem rowBytes_length {pitch : Nat} {luma chroma : List Nat} (room : luma.length + chroma.length ≤ pitch) :
    (rowBytes pitch luma chroma).length = pitch := by
  simp only [rowBytes, zeros, List.length_append, List.length_map, List.length_replicate]
  omega

theorem rowBytes_luma {pitch : Nat} {luma chroma : List Nat} {j : Nat} (hj : j < luma.length) :
    (rowBytes pitch luma chroma)[j]? = some (BitVec.ofNat 8 luma[j]) := by
  rw [rowBytes, List.map_append, List.append_assoc, List.getElem?_append_left (by rwa [List.length_map]),
    List.getElem?_map, List.getElem?_eq_getElem hj]
  rfl

theorem rowBytes_chroma {pitch : Nat} {luma chroma : List Nat} {j : Nat} (hj : j < chroma.length) :
    (rowBytes pitch luma chroma)[luma.length + j]? = some (BitVec.ofNat 8 chroma[j]) := by
  rw [rowBytes, List.map_append, List.append_assoc, List.getElem?_append_right (by rw [List.length_map]; omega),
    List.length_map, Nat.add_sub_cancel_left, List.getElem?_append_left (by rwa [List.length_map]),
    List.getElem?_map, List.getElem?_eq_getElem hj]
  rfl

theorem rowBytes_pad {pitch : Nat} {luma chroma : List Nat} {j : Nat} (after : luma.length + chroma.length ≤ j)
    (hj : j < pitch) : (rowBytes pitch luma chroma)[j]? = some 0 := by
  have length : ((luma ++ chroma).map (BitVec.ofNat 8)).length = luma.length + chroma.length := by
    rw [List.length_map, List.length_append]
  rw [rowBytes, List.getElem?_append_right (by rw [length]; exact after), length, zeros,
    List.getElem?_replicate_of_lt (by omega)]

/-- Settles O39: the bytes of a computed row, and the parts a row is written in. -/
theorem rowLayout : Obligations.RowLayout := by
  unfold Obligations.RowLayout
  refine ⟨fun p w n luma chroma usable whole lumas chromas => ?_, fun offset pitch aligned steps least most => ?_⟩
  · intro row
    obtain ⟨twice, room⟩ := rowPitch_room usable whole
    refine ⟨rowBytes_length ?_, fun j hj => ?_, fun j hj => ?_, fun j after hj => rowBytes_pad ?_ hj⟩
    · simpa only [List.length_map, lumas, chromas, twice] using room
    · refine (rowBytes_luma (by rwa [List.length_map])).trans ?_
      rw [List.getElem_map]
    · have := rowBytes_chroma (pitch := rowPitch p.decimation w)
        (luma := luma.map fun s => legalValue p.legalClamp 16 235 (bandValue p.decimation n s))
        (chroma := chroma.map fun s => legalValue p.legalClamp 16 240 (bandValue p.decimation n s)) (j := j)
        (by rwa [List.length_map])
      rw [List.length_map, List.getElem_map] at this
      exact this
    · simpa only [List.length_map, lumas, chromas, twice] using after
  · intro parts
    by_cases crosses : 4096 - pitch < offset % 4096
    · have two : parts = [{ index := 0, offset := 0, length := 4096 - offset % 4096, state := .waiting },
          { index := 1, offset := 4096 - offset % 4096, length := pitch - (4096 - offset % 4096), state := .waiting }] :=
        if_pos crosses
      refine ⟨.inr ⟨_, _, two, by omega, by omega⟩, fun q hq => ?_⟩
      rw [two] at hq
      simp only [List.mem_cons, List.not_mem_nil, or_false] at hq
      obtain rfl | rfl := hq <;> refine ⟨?_, ?_, ?_⟩ <;> simp only <;> omega
    · have one : parts = [{ index := 0, offset := 0, length := pitch, state := .waiting }] := if_neg crosses
      refine ⟨.inl one, fun q hq => ?_⟩
      rw [one] at hq
      obtain rfl := List.mem_singleton.mp hq
      refine ⟨least, steps, ?_⟩
      simp only
      omega

/-! ### Bands -/

/-- Up to `n` bands complete, one after another. -/
theorem bandsComplete_eq (f : FeedId) (n : Nat) (s : State) : bandsComplete f n s = completeBands f n s := by
  have stay : ∀ (l : List Nat) (u : State), (u.feed f).reducer.mode ≠ .reducing →
      l.foldl (fun u _ => if (u.feed f).reducer.mode = .reducing then completeBand f u else u) u = u := by
    intro l
    induction l with
    | nil => exact fun _ _ => rfl
    | cons k l ih => exact fun u idle => by rw [List.foldl_cons, if_neg idle, ih u idle]
  have each : ∀ (l : List Nat) (u : State),
      l.foldl (fun u _ => if (u.feed f).reducer.mode = .reducing then completeBand f u else u) u
        = completeBands f l.length u := by
    intro l
    induction l with
    | nil => exact fun _ => rfl
    | cons k l ih =>
      intro u
      rw [List.length_cons, completeBands, Feed.reducing, List.foldl_cons]
      by_cases reducing : (u.feed f).reducer.mode = .reducing
      · rw [if_pos reducing, if_pos (decide_eq_true reducing), ih]
      · rw [if_neg reducing, if_neg (by rwa [decide_eq_true_eq]), stay l u reducing]
  rw [bandsComplete, each, List.length_range]

/-- The free buffer a row takes, where one is free (R62). -/
theorem chooseBuffer_eq {r : RowStore} (ref : Option BufferId)
    (free : ¬ (r.buffer0.useCount ≠ 0 ∧ r.buffer1.useCount ≠ 0)) : chooseBuffer r ref = some (
      if r.buffer0.useCount ≠ 0 then .one
      else if r.buffer1.useCount ≠ 0 then .zero
      else match ref with
        | none => .zero
        | some .zero => .one
        | some .one => .zero) := by
  unfold chooseBuffer
  by_cases zero : r.buffer0.useCount = 0
  · by_cases one : r.buffer1.useCount = 0
    · simp only [zero, one, if_true, ne_eq, not_true_eq_false, if_false]
      obtain _ | _ | _ := ref <;> rfl
    · simp [zero, one]
  · have one : r.buffer1.useCount = 0 := by
      by_contra c
      exact free ⟨zero, c⟩
    simp [zero, one]

theorem chooseBuffer_none {r : RowStore} (ref : Option BufferId)
    (busy : r.buffer0.useCount ≠ 0 ∧ r.buffer1.useCount ≠ 0) : chooseBuffer r ref = none := by
  unfold chooseBuffer
  rw [if_neg busy.1, if_neg busy.2]

/-- The band of an open record with browse completes as a hold row. -/
theorem completeBand_hold {f : FeedId} {s : State} {r : FrameRecord} {slot : Nat} {b : BufferId}
    (opened : (s.feed f).openRecord = some r) (browse : r.slot = some slot)
    (held : (s.feed f).reducer.count = 0 ∧ (s.feed f).reducer.band ≠ 0) (reference : (s.feed f).reducer.reference = some b) :
    completeBand f s = handRow f r slot b (s.modFeed f (holdBuffer b)) := by
  unfold completeBand
  simp only [opened, browse, held, reference, ne_eq, not_false_eq_true, and_self, if_true]

/-- The band of an open record with browse completes in a free buffer. -/
theorem completeBand_fill {f : FeedId} {s : State} {r : FrameRecord} {slot : Nat} {b : BufferId}
    (opened : (s.feed f).openRecord = some r) (browse : r.slot = some slot)
    (held : ¬ ((s.feed f).reducer.count = 0 ∧ (s.feed f).reducer.band ≠ 0))
    (chosen : chooseBuffer (s.feed f).rows (s.feed f).reducer.reference = some b) : completeBand f s =
      handRow f r slot b (s.modFeed f (fillBuffer b (bandRow (s.feed f).params r.width (s.feed f).reducer))) := by
  unfold completeBand
  simp only [opened, browse, held, chosen, if_false]

/-- The band of an open record with browse finds no free buffer. -/
theorem completeBand_abandon {f : FeedId} {s : State} {r : FrameRecord} {slot : Nat}
    (opened : (s.feed f).openRecord = some r) (browse : r.slot = some slot)
    (held : ¬ ((s.feed f).reducer.count = 0 ∧ (s.feed f).reducer.band ≠ 0))
    (none : chooseBuffer (s.feed f).rows (s.feed f).reducer.reference = none) : completeBand f s = abandon f r s := by
  unfold completeBand
  simp only [opened, browse, held, none, if_false]

/-- An entry that a deal withdraws: it writes a part of an item that `which` names. -/
theorem rowEntryOf_iff (f : FeedId) (items : List RowItem) (serial : Count) (e : InsEntry) :
    rowEntryOf f (items.filter fun i => decide (i.serial = serial)) e = true ↔ e.source = .feed f ∧ e.kind = .row
      ∧ ∃ i ∈ items, i.serial = serial ∧ e.row.map RowRef.item = some i.ident := by
  unfold rowEntryOf
  cases e.row with
  | none => simp
  | some ref =>
    simp only [Bool.and_eq_true, decide_eq_true_eq, List.any_filter, List.any_eq_true, RowRef.names, and_assoc, Option.map_some,
      Option.some.injEq, eq_comm (a := ref.item)]

/-- The bytes of a buffer after a row is written into it (R62). -/
theorem readCell_writeRow_getD (row : List Byte) (cells : List Host.Cell) {k : Nat} (h : k < 4096) :
    readCell (writeRow row cells) k = row.getD k (readCell cells k) := by
  by_cases inside : k < row.length
  · rw [readCell_writeRow row cells inside h, List.getD_eq_getElem _ _ inside]
  · rw [readCell_writeRow_beyond row cells (by omega), List.getD_eq_default _ _ (Nat.not_lt.mp inside)]

/-- The row of a band, byte by byte of its two forms (R57, R61, R63). -/
theorem bandRow_eq (p : FeedDef) (w : Nat) (r : Reducer) : bandRow p w r =
    if r.count = 0 then List.replicate (w / p.decimation) 16 ++ List.replicate (w / p.decimation) 128
        ++ List.replicate ((2 * w / p.decimation + 31) / 32 * 32 - 2 * (w / p.decimation)) 0
      else computedRow p w r.count r.bandLuma r.bandChroma := by
  unfold bandRow
  split
  · simp only [neutralRow, rowBytes, zeros, rowPitch, roundUp32, List.map_append, List.map_replicate, List.length_replicate,
      two_mul]
    rfl
  · rfl

/-- Settles O40: the three ways a band completes, and the reducer's own steps. -/
theorem bandCompletes : Obligations.BandCompletes := by
  unfold Obligations.BandCompletes
  refine ⟨?_, ?_, ?_, ?_⟩
  · intro f r slot s opened browse x d pitch held busy free row handed
    have hands : ∀ (b : BufferId) (buffer : RowBuffer) (reference : Option BufferId), handRow f r slot b (s.setFeed f { x with
        rows := x.rows.setBuffer b buffer, reducer := { x.reducer with reference := reference } })
          = handed b buffer reference := by
      intro b buffer reference
      simp only [handRow, State.feed_setFeed_self, State.setFeed_setFeed]
      cases b <;> rfl
    refine ⟨fun b hold reference => ?_, fun fresh room => ?_, fun fresh full => ?_⟩
    · rw [completeBand_hold opened browse hold reference, ← hands, ← reference]
      rfl
    · have chosen : chooseBuffer (s.feed f).rows (s.feed f).reducer.reference = some free := chooseBuffer_eq _ room
      refine ⟨writeRow row (x.rows.buffer free).cells, ?_, fun k hk => readCell_writeRow_getD row _ hk⟩
      rw [completeBand_fill opened browse fresh chosen, ← hands, bandRow_eq]
      rfl
    · have none := chooseBuffer_none (s.feed f).reducer.reference full
      have mine := rowEntryOf_iff f x.rows.items r.serial
      have feed : (abandon f r s).feed f = _ := State.feed_modFeed_self _ f _
      refine ⟨_, _, completeBand_abandon opened browse fresh none,
        sweep_deals (fun i => decide (i.serial = r.serial)) .none x.rows, feed, rfl,
        fun g other => State.feed_modFeed_ne _ _ other, fun e => ?_, ?_, fun e he own v issued alone => ?_, fun v clear => ?_⟩
      · show e ∈ s.insQ.filter _ ↔ _
        rw [List.mem_filter, Bool.not_eq_true', ← Bool.not_eq_true, mine]
      · exact List.filter_sublist
      · exact orphaned_tag s.tags he ((mine e).mpr own) issued alone
      · exact unorphaned_tag s.tags fun e he named => clear e he ((mine e).mp named)
  · intro d w line word sample r reducing h
    have holds : r.holdLine line = h := by
      unfold Reducer.holdLine
      cases given : r.line with
      | none => exact (if_pos given).symm
      | some l => exact (if_neg (by rw [given]; nofun)).symm
    refine ⟨fun luma => ?_, fun chroma => ?_, ?_⟩
    · unfold Reducer.addWord
      simp only [reducing, holds, luma, if_true]
      rfl
    · unfold Reducer.addWord
      simp only [reducing, holds, Nat.not_lt.mpr chroma, if_false]
      rfl
    · unfold Reducer.dropLine
      rw [reducing]
      rfl
  · intro d w line word sample r idle
    unfold Reducer.addWord Reducer.dropLine
    rw [idle]
    exact ⟨rfl, rfl⟩
  · intro f line s u z
    have same : completeBands f (line / (s.feed f).params.decimation - (s.feed f).reducer.band) s = u :=
      (bandsComplete_eq f _ s).symm
    rw [reduceLine, same]
    refine ⟨fun idle => if_neg ?_, fun reducing => if_pos (decide_eq_true reducing)⟩
    rw [Feed.reducing, decide_eq_true_eq, show (u.feed f).reducer.mode = .idle from idle]
    nofun

end Sys2Proof.Machine
end

section
/-! The way of a record from CLOSED to DONE: the answers of a header and of a row part (chapters 2.7, 4.1, 4.4, 11.2). -/

namespace Sys2Proof.Machine

/-! ### Records that become DONE or are sealed -/

theorem ready_iff (r : FrameRecord) :
    r.ready = true ↔ r.state = .closed ∧ (r.slot = none ∨ r.rowsAnswered = r.rowsQueued) := by
  rw [FrameRecord.ready, Bool.and_eq_true, Bool.or_eq_true, decide_eq_true_eq, decide_eq_true_eq, Option.isNone_iff_eq_none]

theorem ready_of_unready {r : FrameRecord} (h : r.unready) : r.ready = false :=
  eq_false_of_ne_true fun c => h ((ready_iff r).mp c)

/-- A head that is not ready stays. -/
theorem settle_unready {f : FeedId} (k : Nat) {s : State} (h : ∀ r ∈ (s.feed f).frame.records.head?, r.unready) :
    settle f k s = s := by
  cases k with
  | zero => rfl
  | succ k =>
    rw [settle]
    split
    · rfl
    · rename_i r rest records
      rw [ready_of_unready (h r (by rw [records]; rfl))]
      rfl

/-- A ready head with browse is sealed. -/
theorem settle_seal {f : FeedId} {k : Nat} {s : State} {r : FrameRecord} {rest : List FrameRecord} {slot : Nat}
    (records : (s.feed f).frame.records = r :: rest) (closed : r.state = .closed) (browse : r.slot = some slot)
    (answered : r.rowsAnswered = r.rowsQueued) : settle f (k + 1) s = sealHead f r rest slot s := by
  rw [settle, records]
  simp only [(ready_iff r).mpr ⟨closed, .inr answered⟩, if_true, browse]

/-- A ready head without browse is DONE, and the next record follows. -/
theorem settle_done {f : FeedId} {k : Nat} {s : State} {r : FrameRecord} {rest : List FrameRecord}
    (records : (s.feed f).frame.records = r :: rest) (closed : r.state = .closed) (none : r.slot = none) :
    settle f (k + 1) s = settle f k (finishHead f r rest s) := by
  rw [settle, records]
  simp only [(ready_iff r).mpr ⟨closed, .inl none⟩, if_true, none]

/-- The header's entry, where the queue has a place for it. -/
theorem makeHeader_eq (f : FeedId) (slot : Nat) (r : FrameRecord) (s : State) :
    makeEntry (headerDraft f (s.feed f).params slot r) s = s.headerMade f slot r := by
  have room := quotaRoom_iff_none (q := s.insQ) (src := .feed f) (kind := .header) nofun
  unfold makeEntry State.headerMade
  refine if_congr ?_ rfl rfl
  rw [Bool.and_eq_true]
  exact and_congr decide_eq_true_iff room

theorem headerMade_feed (f : FeedId) (slot : Nat) (r : FrameRecord) (s : State) (g : FeedId) :
    (s.headerMade f slot r).feed g = s.feed g := by
  rw [← makeHeader_eq, makeEntry_feed]

/-- The header's entry reads of its feed the parameters alone. -/
theorem headerMade_setFeed (f : FeedId) (slot : Nat) (r : FrameRecord) (s : State) {y : Feed}
    (params : y.params = (s.feed f).params) : (s.setFeed f y).headerMade f slot r = (s.headerMade f slot r).setFeed f y := by
  rw [← makeHeader_eq, ← makeHeader_eq, State.feed_setFeed_self, params, makeEntry_setFeed]

/-- A head is sealed: its header is made, and it is SEALING. -/
theorem sealHead_eq (f : FeedId) (r : FrameRecord) (rest : List FrameRecord) (slot : Nat) (s : State) :
    sealHead f r rest slot s = (s.headerMade f slot r).setFeed f { s.feed f with
      frame := { (s.feed f).frame with records := { r with state := .sealing } :: rest } } := by
  rw [sealHead, makeHeader_eq, State.modFeed, headerMade_feed]

theorem startBatch_setFeed (s : State) (f : FeedId) (y : Feed) : startBatch (s.setFeed f y) = (startBatch s).setFeed f y := by
  cases defn : s.catalogue.defn with
  | none => simp only [startBatch, State.setFeed_catalogue, defn]
  | some d =>
    have same : batchReady (s.setFeed f y) d = batchReady s d := rfl
    cases ready : batchReady s d with
    | false =>
      rw [startBatch_unready (s := s) defn ready, startBatch_unready (s := s.setFeed f y) defn (same.trans ready)]
    | true =>
      rw [startBatch_ready (s := s) defn ready, startBatch_ready (s := s.setFeed f y) defn (same.trans ready)]
      rfl

/-- Staging an index record reads and moves no feed. -/
theorem stageIndex_setFeed (r : IndexRecord) (s : State) (f : FeedId) (y : Feed) :
    stageIndex r (s.setFeed f y) = (stageIndex r s).setFeed f y := by
  have staged : appendIndex r (s.setFeed f y) = (appendIndex r s).setFeed f y := rfl
  obtain ⟨room, eq⟩ | ⟨full, eq⟩ := stageIndex_cases r s <;> rw [eq]
  · obtain ⟨-, eq'⟩ | ⟨full, -⟩ := stageIndex_cases r (s.setFeed f y)
    · rw [eq', staged, startBatch_setFeed]
    · exact absurd room (Nat.not_lt.mpr full)
  · obtain ⟨room, -⟩ | ⟨-, eq'⟩ := stageIndex_cases r (s.setFeed f y)
    · exact absurd room (Nat.not_lt.mpr full)
    · rw [eq']
      rfl

/-- A head is DONE: its index record is staged, and the feed has counted it and lost it. -/
theorem finishHead_eq (f : FeedId) (r : FrameRecord) (rest : List FrameRecord) (s : State) : finishHead f r rest s =
    (stageIndex (indexRecord f (s.feed f).params r) s).setFeed f (finishedFeed r rest (s.feed f)) := by
  rw [finishHead, State.modFeed, stageIndex_setFeed]
  rfl

/-- Index records staged one after another read and move no feed. -/
theorem foldl_stageIndex_setFeed (f g : FeedId) (p : FeedDef) (l : List FrameRecord) (s : State) (y : Feed) :
    l.foldl (fun v q => stageIndex (indexRecord f p q) v) (s.setFeed g y)
      = (l.foldl (fun v q => stageIndex (indexRecord f p q) v) s).setFeed g y := by
  induction l generalizing s with
  | nil => rfl
  | cons q l ih => rw [List.foldl_cons, stageIndex_setFeed, ih, List.foldl_cons]

theorem foldl_stageIndex_feed (f : FeedId) (p : FeedDef) (l : List FrameRecord) (s : State) (g : FeedId) :
    (l.foldl (fun v q => stageIndex (indexRecord f p q) v) s).feed g = s.feed g := by
  induction l generalizing s with
  | nil => rfl
  | cons q l ih => rw [List.foldl_cons, ih, stageIndex_feed]

/-- A feed after `n` records without browse became DONE, `kept` being what is left. -/
def passedFeed (n : Nat) (kept : List FrameRecord) (x : Feed) : Feed :=
  { x with
    frame := { x.frame with records := kept },
    life := { x.life with counters := { x.life.counters with
      browseAbsent := if n = 0 then x.life.counters.browseAbsent else min 4294967295 (x.life.counters.browseAbsent + n) } } }

/-- A ready record without browse at the head is DONE. -/
theorem finishedFeed_none {r : FrameRecord} (none : r.slot = none) (rest : List FrameRecord) (x : Feed) :
    finishedFeed r rest x = passedFeed 1 rest x := by
  simp only [finishedFeed, Feed.count, countDone, none, Option.isSome_none]
  rfl

theorem passedFeed_passedFeed (n : Nat) (kept kept' : List FrameRecord) (x : Feed) :
    passedFeed n kept (passedFeed 1 kept' x) = passedFeed (n + 1) kept x := by
  have count : ∀ b : Nat, (if n = 0 then min 4294967295 (b + 1) else min 4294967295 (min 4294967295 (b + 1) + n))
      = min 4294967295 (b + (n + 1)) := fun b => by split <;> omega
  simp only [passedFeed, Nat.add_one_ne_zero, if_false, count]

/-- The ready records without browse at the head are DONE in turn. -/
theorem settle_passes (f : FeedId) (gone kept : List FrameRecord) (k : Nat) {s : State}
    (records : (s.feed f).frame.records = gone ++ kept) (passes : ∀ q ∈ gone, q.slot = none ∧ q.state = .closed) :
    settle f (gone.length + k) s = settle f k
      ((gone.foldl (fun v q => stageIndex (indexRecord f (s.feed f).params q) v) s).setFeed f
        (passedFeed gone.length kept (s.feed f))) := by
  induction gone generalizing s with
  | nil =>
    have same : passedFeed 0 kept (s.feed f) = s.feed f := by
      show { s.feed f with frame := { (s.feed f).frame with records := kept } } = _
      rw [show kept = (s.feed f).frame.records from records.symm]
    rw [List.length_nil, Nat.zero_add, same, List.foldl_nil, State.setFeed_self]
  | cons r gone ih =>
    obtain ⟨none, closed⟩ := passes r List.mem_cons_self
    have feed : (finishHead f r (gone ++ kept) s).feed f = passedFeed 1 (gone ++ kept) (s.feed f) := by
      rw [finishHead_feed, finishedFeed_none none]
    have params : (passedFeed 1 (gone ++ kept) (s.feed f)).params = (s.feed f).params := rfl
    rw [List.length_cons, Nat.add_right_comm, settle_done (rest := gone ++ kept) records closed none,
      ih (by rw [feed]; rfl) fun q hq => passes q (List.mem_cons_of_mem _ hq), feed, params, finishHead_eq,
      foldl_stageIndex_setFeed, State.setFeed_setFeed, passedFeed_passedFeed, List.foldl_cons]

/-- Settles O22: P moves, and the records that are ready leave or are sealed. -/
theorem Settled.headerAnswered : Obligations.HeaderAnswered := by
  unfold Obligations.HeaderAnswered
  intro s e t f r gone kept flight normal kind source records sealing browse passes stays x moved staged counters after
  have word : moved = setWord (.publish f) x.publisher.word.moved { (s.freed e t).setFeed f { x with
      publisher := { x.publisher with published := x.publisher.published + 1 } } with
      insQ := moved.insQ, nextAge := moved.nextAge } := by
    have state : (WordId.publish f).state ((s.freed e t).setFeed f { x with
        publisher := { x.publisher with published := x.publisher.published + 1 } }) = x.publisher.word := by
      rw [WordId.state, State.feed_setFeed_self]
    exact (updateWord_eq (.publish f) _).trans (by rw [state])
  have feed : moved.feed f = { x with publisher := { x.publisher with
      published := x.publisher.published + 1, word := x.publisher.word.moved } } := by
    have alone : State.feed { (s.freed e t).setFeed f { x with
          publisher := { x.publisher with published := x.publisher.published + 1 } } with
        insQ := moved.insQ, nextAge := moved.nextAge } f = { x with
          publisher := { x.publisher with published := x.publisher.published + 1 } } :=
      State.feed_setFeed_self (s.freed e t) f _
    rw [word, setWord_publish_self, alone]
  have others : ∀ g : FeedId, g ≠ f → moved.feed g = s.feed g := fun g other => by
    rw [word]
    exact (State.feed_modFeed_ne _ _ other).trans (State.feed_setFeed_ne (s.freed e t) _ other)
  refine ⟨?_, feed, others, (congrArg State.catalogue word :), (congrArg State.tags word :),
    (congrArg State.notices word :), (congrArg State.commands word :), (congrArg State.engine word :)⟩
  have first : answerOk e (s.freed e t) = settleFeed f (finishHead f r (gone ++ kept) moved) := by
    simp only [answerOk, kind, source]
    unfold Machine.headerAnswered
    simp only [State.freed_feed, records, List.cons_append, sealing, if_true]
    rfl
  have params : (moved.feed f).params = x.params := by rw [feed]; rfl
  have staged_feed : staged.feed f = moved.feed f := foldl_stageIndex_feed ..
  have finished : finishHead f r (gone ++ kept) moved
      = (stageIndex (indexRecord f x.params r) moved).setFeed f (finishedFeed r (gone ++ kept) (moved.feed f)) := by
    rw [finishHead_eq, params]
  have fuel : ((finishHead f r (gone ++ kept) moved).feed f).frame.records = gone ++ kept := by
    rw [finishHead_feed]
    rfl
  have passed : answerOk e (s.freed e t) = settle f kept.length (after kept staged) := by
    have counted : passedFeed gone.length kept (finishedFeed r (gone ++ kept) (moved.feed f)) = { moved.feed f with
        frame := { x.frame with records := kept }, life := { x.life with counters := counters } } := by
      obtain ⟨slot, browse⟩ := Option.ne_none_iff_exists'.mp browse
      rw [feed]
      simp only [passedFeed, finishedFeed, Feed.count, countDone, browse, Option.isSome_some, if_true, counters,
        List.length_eq_zero_iff]
      rfl
    rw [first, settleFeed, fuel, List.length_append, settle_passes f gone kept kept.length fuel passes, finishHead_feed,
      finished, foldl_stageIndex_setFeed, State.setFeed_setFeed, counted]
    show _ = settle f kept.length (staged.setFeed f { staged.feed f with
      frame := { x.frame with records := kept }, life := { x.life with counters := counters } })
    rw [staged_feed]
    exact congrArg (settle f kept.length) (congrArg (fun p => (gone.foldl (fun v q => stageIndex (indexRecord f p q) v)
      (stageIndex (indexRecord f x.params r) moved)).setFeed f _) params)
  rw [answerOk_flight flight normal, passed]
  have left : (after kept staged).feed f = { staged.feed f with
      frame := { x.frame with records := kept }, life := { x.life with counters := counters } } := State.feed_setFeed_self ..
  cases kept with
  | nil => rfl
  | cons q rest =>
    have unready : q.unready → settle f (q :: rest).length (after (q :: rest) staged) = after (q :: rest) staged :=
      fun unready => settle_unready _ fun z hz => by
        rw [left] at hz
        cases hz
        exact unready
    cases slot : q.slot with
    | none =>
      refine congrArg Host.Outcome.next ?_
      simp only [slot]
      exact unready ((stays q rfl).resolve_right fun c => c slot)
    | some n =>
      refine congrArg Host.Outcome.next ?_
      simp only [slot]
      by_cases ready : q.state = .closed ∧ q.rowsAnswered = q.rowsQueued
      · rw [if_pos ready, List.length_cons, settle_seal (by rw [left]) ready.1 slot ready.2, sealHead_eq, left]
        have params : Feed.params { staged.feed f with
            frame := { x.frame with records := q :: rest }, life := { x.life with counters := counters } }
            = (staged.feed f).params := by rw [staged_feed, feed]; rfl
        have made := headerMade_setFeed f n q staged params
        show (State.headerMade f n q (staged.setFeed f _)).setFeed f _ = (staged.headerMade f n q).setFeed f _
        rw [made, State.setFeed_setFeed, headerMade_feed, slot]
      · rw [if_neg ready, unready fun c => ready ⟨c.1, c.2.resolve_left fun none => by rw [slot] at none; cases none⟩]

/-! ### A row part answered -/

/-- One item of a list changed, where a test names it alone. -/
theorem map_names {α : Type} {named : α → Prop} [DecidablePred named] {pre post : List α} {i : α} (g : α → α)
    (here : named i) (others : ∀ j ∈ pre ++ post, ¬ named j) :
    (pre ++ i :: post).map (fun j => if named j then g j else j) = pre ++ g i :: post := by
  have same : ∀ l : List α, (∀ j ∈ l, ¬ named j) → l.map (fun j => if named j then g j else j) = l := fun l none =>
    (List.map_congr_left fun j hj => if_neg (none j hj)).trans (List.map_id _)
  rw [List.map_append, List.map_cons, if_pos here, same pre fun j hj => others j (List.mem_append_left _ hj),
    same post fun j hj => others j (List.mem_append_right _ hj)]

/-- The one part that a row reference names, marked. -/
theorem markPart_at {r : RowStore} {ref : RowRef} {pre post : List RowItem} {i : RowItem} {before after : List RowPart}
    {p : RowPart} (v : PartState) (items : r.items = pre ++ i :: post) (named : i.ident = ref.item)
    (parts : i.parts = before ++ p :: after) (index : p.index = ref.part)
    (others : ∀ j ∈ pre ++ post, j.ident ≠ ref.item) (rest : ∀ q ∈ before ++ after, q.index ≠ ref.part) :
    r.markPart ref v = { r with
      items := pre ++ { i with parts := before ++ { p with state := v } :: after } :: post } := by
  rw [markPart_eq, items, map_names (named := fun i : RowItem => i.ident = ref.item) _ named others, parts,
    map_names (named := fun p : RowPart => p.index = ref.part) _ index rest]

/-- A list in which one item alone passes a test, without it. -/
theorem filter_alone {α : Type} {t : α → Bool} {pre post : List α} {i : α} (here : t i = true)
    (others : ∀ j ∈ pre ++ post, t j = false) :
    (pre ++ i :: post).filter t = [i] ∧ (pre ++ i :: post).filter (fun j => !t j) = pre ++ post := by
  have none : ∀ l : List α, (∀ j ∈ l, t j = false) → l.filter t = [] ∧ l.filter (fun j => !t j) = l := fun l h =>
    ⟨List.filter_eq_nil_iff.mpr fun j hj => by rw [h j hj]; nofun, List.filter_eq_self.mpr fun j hj => by rw [h j hj]; rfl⟩
  obtain ⟨preNone, preSelf⟩ := none pre fun j hj => others j (List.mem_append_left _ hj)
  obtain ⟨postNone, postSelf⟩ := none post fun j hj => others j (List.mem_append_right _ hj)
  constructor
  · rw [List.filter_append, List.filter_cons_of_pos here, preNone, postNone, List.nil_append]
  · rw [List.filter_append, List.filter_cons_of_neg (by rw [here]; nofun), preSelf, postSelf]

/-- A sweep where no item has ended. -/
theorem sweep_none {r : RowStore} (none : ∀ j ∈ r.items, j.ended = false) : r.sweep = r := by
  have gone : r.items.filter RowItem.ended = [] := List.filter_eq_nil_iff.mpr fun j hj => by rw [none j hj]; nofun
  have stay : r.items.filter (fun i => !i.ended) = r.items := List.filter_eq_self.mpr fun j hj => by rw [none j hj]; rfl
  rw [RowStore.sweep, gone, stay]
  rfl

/-- A sweep where one item alone has ended: it leaves, and its buffer has one use less. -/
theorem sweep_one {r : RowStore} {pre post : List RowItem} {i : RowItem} (items : r.items = pre ++ i :: post)
    (ended : i.ended = true) (others : ∀ j ∈ pre ++ post, j.ended = false) : r.sweep =
      RowStore.setBuffer { r with items := pre ++ post } i.buffer
        { r.buffer i.buffer with useCount := (r.buffer i.buffer).useCount - 1 } := by
  obtain ⟨gone, stay⟩ := filter_alone ended others
  rw [RowStore.sweep, items, gone, stay]
  cases buffer : i.buffer <;> simp [RowStore.setBuffer, RowStore.buffer, lowerUse, buffer]

/-- A row part answered, its LIVE item not ended. -/
theorem rowAnswered_stays {f : FeedId} {ref : RowRef} {s : State} {marked : RowStore}
    (mark : (s.feed f).rows.markPart ref .answered = marked) (none : endedLive ref marked.items = none) :
    rowAnswered f ref s = settleFeed f (s.setFeed f { s.feed f with rows := marked.sweep }) := by
  unfold rowAnswered
  simp only [mark, none]
  rfl

/-- A row part answered, its LIVE item ended: the record counts one row answered. -/
theorem rowAnswered_ends {f : FeedId} {ref : RowRef} {s : State} {marked : RowStore} {serial : Count}
    (mark : (s.feed f).rows.markPart ref .answered = marked) (counted : endedLive ref marked.items = some serial) :
    rowAnswered f ref s = settleFeed f (s.setFeed f (countRow serial { s.feed f with rows := marked.sweep })) := by
  unfold rowAnswered
  simp only [mark, counted]
  rfl

theorem headerBytes_layout (f : FeedId) (p : FeedDef) (r : FrameRecord) : headerBytes f p r = layout [
    (1, f.val), (1, p.tag.toNat), (2, r.conditions.toNat), (4, r.serial.toNat), (1, r.timecode.frames.toNat),
    (1, r.timecode.seconds.toNat), (1, r.timecode.minutes.toNat), (1, r.timecode.hours.toNat),
    (2, r.width / p.decimation), (2, r.height / p.decimation), (2, (2 * r.width / p.decimation + 31) / 32 * 32),
    (1, if p.legalClamp then 1 else 0), (1, 0), (2, r.linesMissing), (2, 0), (8, r.openTime.toNat), (32, 0)] := by
  simp only [headerBytes, layout, List.flatMap_cons, List.flatMap_nil, leBytes_one, leBytes_zero_value, ofNat_toNat_byte,
    feedByte, timecodeBytes, boolByte_eq, List.cons_append, List.nil_append, List.append_assoc, List.append_nil]
  rfl

/-- Settles O26: one part of several, the last, and the one that seals the head; and the header's layout. -/
theorem Settled.rowAnswered : Obligations.RowAnswered := by
  unfold Obligations.RowAnswered
  refine ⟨?_, fun f p r => recordHolds_layout _ (headerBytes_layout f p r) (by simp) fun q hq => hq⟩
  intro s e t f ref pre post i before after p flight normal kind source row items named parts index live others rest unready
    x rows records became
  have alone : ∀ j ∈ pre ++ post, j.ident ≠ ref.item := fun j hj => (others j hj).1
  have open_ : ∀ j ∈ pre ++ post, j.ended = false := fun j hj => by
    obtain ⟨-, q, hq, unanswered⟩ := others j hj
    exact List.all_eq_false.mpr ⟨q, hq, by rwa [decide_eq_true_eq]⟩
  have mark := markPart_at (r := ((s.freed e t).feed f).rows) .answered items named parts index alone rest
  have answered : exec (.insertionAnswer t .ok) s = .next (Machine.rowAnswered f ref (s.freed e t)) := by
    rw [answerOk_flight flight normal]
    simp only [answerOk, kind, source, row]
  rw [answered]
  have notNamed : ∀ j ∈ pre, (ref.names j && j.ended && decide (j.standing = .live)) = false := fun j hj => by
    rw [open_ j (List.mem_append_left _ hj), Bool.and_false, Bool.false_and]
  refine ⟨fun ⟨q, hq, unanswered⟩ => ?_, fun all => ?_⟩
  · have open' : RowItem.ended { i with parts := before ++ { p with state := .answered } :: after } = false := by
      refine List.all_eq_false.mpr ⟨q, ?_, by rwa [decide_eq_true_eq]⟩
      simp only [List.mem_append, List.mem_cons] at hq ⊢
      tauto
    have none : ∀ j ∈ pre ++ { i with parts := before ++ { p with state := .answered } :: after } :: post,
        j.ended = false := fun j hj => by
      simp only [List.mem_append, List.mem_cons] at hj
      obtain hj | rfl | hj := hj
      · exact open_ j (List.mem_append_left _ hj)
      · exact open'
      · exact open_ j (List.mem_append_right _ hj)
    have none' : endedLive ref (pre ++ { i with parts := before ++ { p with state := .answered } :: after } :: post)
        = .none := by
      rw [endedLive, List.find?_eq_none.mpr fun j hj => by rw [none j hj, Bool.and_false, Bool.false_and]; nofun]
      rfl
    rw [rowAnswered_stays mark none', sweep_none none]
    refine congrArg Host.Outcome.next (settle_unready _ fun r hr => unready r ?_)
    rw [State.feed_setFeed_self] at hr
    exact hr
  · have ended : RowItem.ended { i with parts := before ++ { p with state := .answered } :: after } = true := by
      refine List.all_eq_true.mpr fun q hq => decide_eq_true ?_
      simp only [List.mem_append, List.mem_cons] at hq
      obtain hq | rfl | hq := hq
      · exact all q (List.mem_append_left _ hq)
      · rfl
      · exact all q (List.mem_append_right _ hq)
    have counted : endedLive ref (pre ++ { i with parts := before ++ { p with state := .answered } :: after } :: post)
        = some i.serial := by
      rw [endedLive, find?_append_cons notNamed ?_]
      · rfl
      · rw [ended, Bool.and_true, Bool.and_eq_true]
        exact ⟨decide_eq_true named, decide_eq_true live⟩
    have swept : RowStore.sweep { x.rows with
        items := pre ++ { i with parts := before ++ { p with state := .answered } :: after } :: post } = rows :=
      sweep_one (i := { i with parts := before ++ { p with state := .answered } :: after }) rfl ended open_
    have left : Machine.rowAnswered f ref (s.freed e t) = settleFeed f ((s.freed e t).setFeed f (became records)) := by
      have became_eq : countRow i.serial { (s.freed e t).feed f with rows := rows } = became records := rfl
      rw [rowAnswered_ends mark counted, ← became_eq, ← swept]
      rfl
    have feed : ((s.freed e t).setFeed f (became records)).feed f = became records := State.feed_setFeed_self ..
    have list : (((s.freed e t).setFeed f (became records)).feed f).frame.records = records := by rw [feed]
    rw [left]
    refine ⟨fun still => ?_, fun r rest slot head closed browse every => ?_⟩
    · refine congrArg Host.Outcome.next (settle_unready _ fun r hr => still r ?_)
      rwa [list] at hr
    · have params : (became records).params = ((s.freed e t).feed f).params := rfl
      rw [settleFeed, list, congrArg List.length head, List.length_cons, settle_seal (list.trans head) closed browse every,
        sealHead_eq, headerMade_setFeed _ _ _ _ params, feed, State.setFeed_setFeed]

end Sys2Proof.Machine
end

section
/-! The parser's steps in the words of the rules: the cursor, lengths, gaps and breaks, one position of an entry, HUNT and
the header reject (chapters 1.3 to 1.5, 2.6). -/

namespace Sys2Proof.Machine

/-! ### The moves of a feed under its parser -/

theorem ringNext_eq (p : FeedDef) (addr : Addr) : ringNext p addr 32 = cursorPast p addr :=
  (apply_ite (BitVec.ofNat 40) _ _ _).symm

theorem countLength_eq (n : Nat) (x : Feed) : countLength n x = x.lengthened n := rfl

theorem noteGap_eq (gap : Nat) (x : Feed) : noteGap gap x = x.gapNoted gap := by
  unfold noteGap Feed.gapNoted
  split <;> rfl

theorem gapNoted_zero (x : Feed) : x.gapNoted 0 = x := rfl

theorem withOpen_parse (g : FrameRecord → FrameRecord) (x : Feed) : (x.withOpen g).parse = x.parse := by
  unfold Feed.withOpen; split <;> rfl
theorem withOpen_life (g : FrameRecord → FrameRecord) (x : Feed) : (x.withOpen g).life = x.life := by
  unfold Feed.withOpen; split <;> rfl
theorem withOpen_publisher (g : FrameRecord → FrameRecord) (x : Feed) : (x.withOpen g).publisher = x.publisher := by
  unfold Feed.withOpen; split <;> rfl
theorem withOpen_rows (g : FrameRecord → FrameRecord) (x : Feed) : (x.withOpen g).rows = x.rows := by
  unfold Feed.withOpen; split <;> rfl
theorem withOpen_openFrame (g : FrameRecord → FrameRecord) (x : Feed) :
    (x.withOpen g).frame.openFrame = x.frame.openFrame := by
  unfold Feed.withOpen; split <;> rfl
theorem withOpen_records_length (g : FrameRecord → FrameRecord) (x : Feed) :
    (x.withOpen g).frame.records.length = x.frame.records.length := by
  unfold Feed.withOpen
  split
  · exact List.length_map ..
  · rfl

/-- The records of a feed whose open record changes: those of a tracked frame, each OPEN one changed. -/
theorem withOpen_records (g : FrameRecord → FrameRecord) {x : Feed} (tracked : x.frame.openFrame = .tracked) :
    (x.withOpen g).frame.records = x.frame.records.map fun r => if r.state = .opened then g r else r := by
  unfold Feed.withOpen
  rw [if_pos tracked]

/-- An OPEN record of a feed whose open record has changed. -/
theorem mem_withOpen {g : FrameRecord → FrameRecord} {x : Feed} {r : FrameRecord} (tracked : x.frame.openFrame = .tracked)
    (mem : r ∈ (x.withOpen g).frame.records) (opened : r.state = .opened) :
    ∃ q ∈ x.frame.records, r = g q ∧ q.state = .opened := by
  rw [withOpen_records g tracked] at mem
  obtain ⟨q, hq, rfl⟩ := List.mem_map.mp mem
  by_cases was : q.state = .opened
  · exact ⟨q, hq, if_pos was, was⟩
  · rw [if_neg was] at opened
    exact absurd opened was

/-- A partly parsed line dropped (R25, R55). -/
theorem discardLine_eq (x : Feed) : discardLine x = { x with reducer := (match x.parse.packet with
    | some { kind := _, disposition := .lines _ _ word } => if 0 < word then x.reducer.dropLine else x.reducer
    | _ => x.reducer) } := by
  unfold discardLine
  rcases packet : x.parse.packet with _ | ⟨k, d⟩
  · rfl
  · cases d with
    | lines a b word =>
      dsimp only
      split <;> rfl
    | _ => rfl

theorem breakFeed_eq (x : Feed) : breakFeed x = x.broken := by
  have dropped := discardLine_eq x
  unfold breakFeed flagOpen Feed.broken Feed.withOpen
  rw [dropped]
  by_cases tracked : x.frame.openFrame = .tracked
  · exact (congrArg _ (congrArg _ (if_pos tracked))).trans (if_pos tracked).symm
  · exact (congrArg _ (congrArg _ (if_neg tracked))).trans (if_neg tracked).symm

theorem broken_parse (x : Feed) : x.broken.parse =
    { x.parse with state := .hunt, residue := 0, packet := none, budget := 0 } := withOpen_parse ..

theorem broken_params (x : Feed) : x.broken.params = x.params := by
  unfold Feed.params Feed.broken
  rw [withOpen_life]

/-! ### One entry -/

theorem positions_one {data : List Byte} (length : data.length = 32) : positions data = [data] := by
  have whole : slice data (32 * 0) 32 = data := by
    rw [slice, Nat.mul_zero, List.drop_zero, List.take_of_length_le (Nat.le_of_eq length)]
  rw [positions, length]
  exact congrArg (· :: []) whole

/-- The parser takes the head tap entry. -/
theorem exec_parseTapEntry {s : State} {e : TapEntry} {rest : List TapEntry} (queue : s.tapQ = e :: rest) :
    exec .parseTapEntry s = .next (parseEntry e { s with tapQ := rest }) := by
  simp only [exec, execParseTapEntry, serveTap, queue]

theorem isBreak_iff (e : TapEntry) (c : ParseContext) : isBreak e c = true ↔
    (c.state = .atHeader ∨ c.state = .inPayload) ∧ (e.addr ≠ c.cursor ∨ e.afterMiss = true) := by
  unfold isBreak
  cases c.state <;> simp

/-- An entry of one position that is no break. -/
theorem parseTapEntry_one {s : State} {e : TapEntry} {rest : List TapEntry} (queue : s.tapQ = e :: rest)
    (length : e.data.length = 32) (whole : isBreak e (s.feed e.feed).parse = false) :
    exec .parseTapEntry s = .next (parsePosition e.feed e.stamp e.addr e.data { s with tapQ := rest }) := by
  rw [exec_parseTapEntry queue, parseEntry]
  simp only [positions_one length, show isBreak e (State.feed { s with tapQ := rest } e.feed).parse = false from whole,
    Bool.false_eq_true, if_false]
  rfl

theorem isBreak_of_meetsHeader {x : Feed} {e : TapEntry} (meets : x.meetsHeader e) : isBreak e x.parse = false := by
  refine eq_false_of_ne_true fun c => ?_
  obtain ⟨state, broken⟩ := (isBreak_iff e x.parse).mp c
  obtain hunt | ⟨-, cursor, clean⟩ := meets
  · rw [hunt] at state
    obtain c | c := state <;> cases c
  · obtain c | c := broken
    · exact c cursor
    · rw [clean] at c
      cases c

/-! ### HUNT and the header reject -/

/-- A failed position in HUNT (R13, R41). -/
def Feed.huntedOn (addr : Addr) (x : Feed) : Feed := Feed.lengthened 32 { x with parse := { x.parse with
  budget := x.parse.budget + 32, cursor := cursorPast x.params addr } }

theorem failPosition_eq (addr : Addr) (x : Feed) : failPosition addr x = x.huntedOn addr := by
  rw [failPosition, ringNext_eq]
  rfl

theorem huntedOn_parse (addr : Addr) (x : Feed) : (x.huntedOn addr).parse =
    { x.parse with budget := x.parse.budget + 32, cursor := cursorPast x.params addr } := withOpen_parse ..

theorem huntedOn_life (addr : Addr) (x : Feed) : (x.huntedOn addr).life = x.life := withOpen_life ..

theorem huntedOn_params (addr : Addr) (x : Feed) : (x.huntedOn addr).params = x.params := by
  rw [Feed.params, huntedOn_life]
  rfl

/-- An entry of one position that holds no header, in HUNT. -/
theorem hunt_none {s : State} {e : TapEntry} {rest : List TapEntry} (queue : s.tapQ = e :: rest)
    (length : e.data.length = 32) (none : readHeader (s.feed e.feed).params.tag e.data = none)
    (hunt : (s.feed e.feed).parse.state = .hunt) :
    exec .parseTapEntry s = .next (
      if (s.feed e.feed).params.ingestSize < (s.feed e.feed).parse.budget + 32 then
        feedFault e.feed .noLock (State.setFeed { s with tapQ := rest } e.feed ((s.feed e.feed).huntedOn e.addr))
      else State.setFeed { s with tapQ := rest } e.feed ((s.feed e.feed).huntedOn e.addr)) := by
  have whole : isBreak e (s.feed e.feed).parse = false := isBreak_of_meetsHeader (.inl hunt)
  have scanned : huntPosition e.feed e.stamp e.addr e.data { s with tapQ := rest } =
      if (s.feed e.feed).params.ingestSize < (s.feed e.feed).parse.budget + 32 then
        feedFault e.feed .noLock (State.setFeed { s with tapQ := rest } e.feed ((s.feed e.feed).huntedOn e.addr))
      else State.setFeed { s with tapQ := rest } e.feed ((s.feed e.feed).huntedOn e.addr) := by
    unfold huntPosition
    simp only [State.feed_tapQ, none, State.feed_modFeed_self, failPosition_eq, huntedOn_params, huntedOn_parse]
    refine if_congr Iff.rfl (congrArg (feedFault e.feed .noLock) ?_) ?_ <;>
      exact congrArg (fun y => State.setFeed { s with tapQ := rest } e.feed y) (failPosition_eq e.addr _)
  rw [parseTapEntry_one queue length whole, ← scanned]
  simp only [parsePosition, State.feed_tapQ, hunt]

/-- What a feed fault tells, but for the feed it faults. -/
theorem feedFault_told (f : FeedId) (cause : FaultCause) {s u : State} (alike : ToldAlike s u) {n : Nat}
    (records : (u.feed f).frame.records.length = n) :
    ToldAlike (stageEvent (.feedFault f cause n) { s with insQ := s.insQ.filter fun y => decide (y.source ≠ .feed f) })
      (feedFault f cause u) := by
  obtain ⟨notices, insQ, age, engine, straps, time⟩ := alike
  have queue : u.insQ.filter (fun e => !decide (e.source = .feed f)) = s.insQ.filter fun e => decide (e.source ≠ .feed f) := by
    rw [insQ]
    exact List.filter_congr fun e _ => (decide_not ..).symm
  have faulted : ToldAlike { s with insQ := s.insQ.filter fun y => decide (y.source ≠ .feed f) } (faultedState f cause u) :=
    ⟨notices, queue, age, engine, straps, time⟩
  rw [feedFault_eq, records]
  exact faulted.stageEvent _

theorem feedFault_feed (f : FeedId) (cause : FaultCause) (s : State) :
    (feedFault f cause s).feed f = faultedFeed cause (hasPublishEntry f s.insQ) (s.feed f) := by
  rw [feedFault_eq, stageEvent_feed]
  exact State.feed_setFeed_self s f _

theorem feedFault_tapQ (f : FeedId) (cause : FaultCause) (s : State) :
    (feedFault f cause s).tapQ = s.tapQ.filter fun e => decide (e.feed ≠ f) := by
  rw [feedFault_eq, stageEvent_tapQ]
  rfl

/-- A lifecycle at a fault of a feed whose parser runs (R125). -/
theorem faultLife_running (cause : FaultCause) (n : Nat) {l : Lifecycle} (runs : l.state = .active ∨ l.state = .suspended) :
    (faultLife cause n l).state = .faulted := by
  obtain state | state := runs <;> simp only [faultLife, state]

/-- Settles O31: the failed position in HUNT and in AT HEADER. -/
theorem huntScans : Obligations.HuntScans := by
  unfold Obligations.HuntScans
  intro s e rest queue length none f x told
  refine ⟨fun hunt within => ?_, fun hunt beyond => ?_, fun state cursor clean => ?_⟩
  · rw [hunt_none queue length none hunt, if_neg (Nat.not_lt.mpr within)]
    rfl
  · have records : ((State.setFeed { s with tapQ := rest } f (x.huntedOn e.addr)).feed f).frame.records.length
        = x.frame.records.length := by
      rw [State.feed_setFeed_self]
      exact withOpen_records_length ..
    obtain ⟨notices, insQ, age, -⟩ := feedFault_told f .noLock (s := s)
      (u := State.setFeed { s with tapQ := rest } f (x.huntedOn e.addr)) ⟨rfl, rfl, rfl, rfl, rfl, rfl⟩ records
    have faulted := feedFault_feed f .noLock (State.setFeed { s with tapQ := rest } f (x.huntedOn e.addr))
    rw [State.feed_setFeed_self] at faulted
    rw [hunt_none queue length none hunt, if_pos beyond]
    refine ⟨_, rfl, ?_, fun runs => ?_, ?_, ?_, feedFault_tapQ .., notices, insQ, age⟩
    · rw [faulted]
      rfl
    · rw [faulted, faultedFeed_life]
      exact faultLife_running _ _ (by rwa [huntedOn_life])
    · rw [faulted, faultedFeed_parse]
    · rw [faulted, faultedFeed_frame]
  · have whole : isBreak e x.parse = false := isBreak_of_meetsHeader (.inr ⟨state, cursor, clean⟩)
    rw [parseTapEntry_one queue length whole]
    have rejected : headerPosition f e.stamp e.addr e.data { s with tapQ := rest }
        = State.setFeed { s with tapQ := rest } f (rejectHeader e.addr x) := by
      simp only [headerPosition, State.feed_tapQ, none, State.modFeed, f, x]
    simp only [parsePosition, State.feed_tapQ, show (s.feed e.feed).parse.state = .atHeader from state]
    rw [rejected, rejectHeader, ringNext_eq]
    rfl

/-! ### Breaks -/

/-- A break is scanned as on the feed after it. -/
theorem break_broken {s : State} {e : TapEntry} {rest : List TapEntry} (queue : s.tapQ = e :: rest)
    (broken : isBreak e (s.feed e.feed).parse = true) :
    exec .parseTapEntry s = exec .parseTapEntry (s.setFeed e.feed (s.feed e.feed).broken) := by
  have hunts : isBreak e ((s.setFeed e.feed (s.feed e.feed).broken).feed e.feed).parse = false := by
    rw [State.feed_setFeed_self]
    exact isBreak_of_meetsHeader (.inl (by rw [broken_parse]))
  have tested : State.modFeed { s with tapQ := rest } e.feed breakFeed
      = { s.setFeed e.feed (s.feed e.feed).broken with tapQ := rest } := by
    rw [State.modFeed, State.feed_tapQ, breakFeed_eq]
    rfl
  rw [exec_parseTapEntry queue, exec_parseTapEntry (s := s.setFeed e.feed (s.feed e.feed).broken) queue, parseEntry,
    parseEntry]
  simp only [State.feed_tapQ, broken, hunts, if_true, Bool.false_eq_true, if_false, tested]

/-- The OPEN record after a break has BREAK set. -/
theorem broken_flags {x : Feed} (tracked : x.frame.openFrame = .tracked) (addr : Addr) {r : FrameRecord}
    (mem : r ∈ (x.broken.huntedOn addr).frame.records) (opened : r.state = .opened) :
    hasCondition .break r.conditions = true := by
  have tracked' : x.broken.frame.openFrame = .tracked := (withOpen_openFrame ..).trans tracked
  obtain ⟨q, hq, rfl, opened'⟩ := mem_withOpen (x := { x.broken with parse := { x.broken.parse with
    budget := x.broken.parse.budget + 32, cursor := cursorPast x.broken.params addr } }) tracked' mem opened
  obtain ⟨p, -, rfl, -⟩ := mem_withOpen (x := { x with
      parse := { x.parse with state := .hunt, residue := 0, packet := none, budget := 0 },
      life := { x.life with counters := { x.life.counters with breaks := min 4294967295 (x.life.counters.breaks + 1) } },
      reducer := (match x.parse.packet with
        | some { kind := _, disposition := .lines _ _ word } => if 0 < word then x.reducer.dropLine else x.reducer
        | _ => x.reducer) }) tracked hq opened'
  simp [hasCondition, Condition.bit]

/-- Settles O32: the break, and what it leaves. -/
theorem breakHunts : Obligations.BreakHunts := by
  unfold Obligations.BreakHunts
  intro s e rest queue state cut f x
  have broken : isBreak e (s.feed e.feed).parse = true := (isBreak_iff ..).mpr ⟨state, cut⟩
  refine ⟨break_broken queue broken, fun length none room => ?_⟩
  have self : (s.setFeed f x.broken).feed f = x.broken := State.feed_setFeed_self ..
  have hunt : x.broken.parse.state = .hunt := by rw [broken_parse]
  have stepped : exec .parseTapEntry s = .next (State.setFeed { s with tapQ := rest } f (x.broken.huntedOn e.addr)) := by
    rw [break_broken queue broken]
    refine (hunt_none (s := s.setFeed f x.broken) queue length (by rw [self, broken_params]; exact none)
      (by rw [self]; exact hunt)).trans ?_
    rw [self, broken_params, broken_parse, if_neg (Nat.not_lt.mpr (by simpa using room))]
    exact congrArg Host.Outcome.next (State.setFeed_setFeed { s with tapQ := rest } f _ _)
  rw [stepped]
  refine ⟨_, rfl, rfl, ?_⟩
  rw [State.feed_setFeed_self, huntedOn_parse, broken_parse, huntedOn_life]
  refine ⟨rfl, rfl, rfl, rfl, rfl, withOpen_life .., ?_, ?_,
    fun tracked r mem opened => broken_flags tracked e.addr mem opened, ?_, ?_, fun g other => State.feed_setFeed_ne _ _ other, rfl, rfl⟩
  · exact (withOpen_openFrame ..).trans (withOpen_openFrame ..)
  · exact (withOpen_records_length ..).trans (withOpen_records_length ..)
  · exact (withOpen_publisher ..).trans (withOpen_publisher ..)
  · exact (withOpen_rows ..).trans (withOpen_rows ..)

end Sys2Proof.Machine
end

section
/-! What serving the tap queue keeps of its feed and of the queue (chapters 1.3, 7.6). -/

namespace Sys2Proof.Machine

/-! ### Steps that keep the context's state and the tap queue -/

/-- From `s` to `t` feed `f` keeps its presence and the state of its parse context, and the tap queue stands. -/
structure Steady (f : FeedId) (s t : State) : Prop where
  presence : (t.feed f).life.presence = (s.feed f).life.presence
  state : (t.feed f).parse.state = (s.feed f).parse.state
  tapQ : t.tapQ = s.tapQ

theorem Steady.refl (f : FeedId) (s : State) : Steady f s s := ⟨rfl, rfl, rfl⟩

theorem Steady.trans {f : FeedId} {s t u : State} (h : Steady f s t) (k : Steady f t u) : Steady f s u :=
  ⟨k.presence.trans h.presence, k.state.trans h.state, k.tapQ.trans h.tapQ⟩

theorem steady_setFeed {f : FeedId} {s : State} {x : Feed} (presence : x.life.presence = (s.feed f).life.presence)
    (state : x.parse.state = (s.feed f).parse.state) : Steady f s (s.setFeed f x) :=
  ⟨by rw [State.feed_setFeed_self, presence], by rw [State.feed_setFeed_self, state], rfl⟩

theorem steady_modFeed {f : FeedId} {s : State} {k : Feed → Feed}
    (presence : (k (s.feed f)).life.presence = (s.feed f).life.presence)
    (state : (k (s.feed f)).parse.state = (s.feed f).parse.state) : Steady f s (s.modFeed f k) :=
  steady_setFeed presence state

theorem steady_framed {f : FeedId} {s t : State} (framed : Framed (s.feed f) (t.feed f)) (tapQ : t.tapQ = s.tapQ) :
    Steady f s t := by
  have presence : (t.feed f).life.presence = (s.feed f).life.presence := by
    have := congrArg Lifecycle.presence framed.life
    exact this
  exact ⟨presence, congrArg ParseContext.state framed.parse, tapQ⟩

theorem completeBands_tapQ (f : FeedId) (k : Nat) (s : State) : (completeBands f k s).tapQ = s.tapQ := by
  have one : ∀ u : State, (completeBand f u).tapQ = u.tapQ := fun u => by
    unfold completeBand
    dsimp only
    repeat' split
    all_goals rfl
  induction k generalizing s with
  | zero => rfl
  | succ k ih =>
    rw [completeBands]
    split
    · rw [ih, one]
    · rfl

theorem steady_reduceLine (f : FeedId) (line : Nat) (s : State) : Steady f s (reduceLine f line s) := by
  refine steady_framed (framed_reduceLine f line s) ?_
  unfold reduceLine
  dsimp only
  split <;> exact completeBands_tapQ ..

theorem settle_tapQ (f : FeedId) (k : Nat) (s : State) : (settle f k s).tapQ = s.tapQ := by
  induction k generalizing s with
  | zero => rfl
  | succ k ih =>
    rw [settle]
    repeat' split
    · rfl
    · rw [ih, finishHead, stageIndex_tapQ]
      rfl
    · exact makeEntry_tapQ ..
    · rfl

theorem steady_closeTracked (f : FeedId) (cause : CloseCause) (s : State) : Steady f s (closeTracked f cause s) := by
  obtain ⟨marked, banded, rfl, hb, h⟩ := closeTracked_eq f cause s
  refine steady_framed (framed_closeTracked f cause s).1 ?_
  rw [h, settleFeed, settle_tapQ]
  obtain rfl | ⟨height, rfl⟩ := hb
  · rfl
  · exact completeBands_tapQ ..

theorem steady_completeLine (f : FeedId) (line : Nat) (r : FrameRecord) (s : State) :
    Steady f s (completeLine f line r s) := by
  unfold completeLine
  dsimp only
  repeat' split
  · exact (steady_modFeed rfl rfl).trans (steady_reduceLine ..)
  · exact steady_modFeed rfl rfl
  · exact .refl f s

theorem steady_pictureWord (f : FeedId) (s : State) (word : Nat) : Steady f s (pictureWord f s word) := by
  unfold pictureWord
  dsimp only
  repeat' split
  · exact .refl f s
  · refine Steady.trans (steady_setFeed ?_ ?_) (steady_completeLine ..) <;> rfl
  · refine Steady.trans (steady_setFeed ?_ ?_) (steady_completeLine ..) <;> rfl
  · exact steady_setFeed rfl rfl
  · exact steady_setFeed rfl rfl
  · exact .refl f s

theorem audioWords_steady (words : List Nat) (x : Feed) :
    (words.foldl audioWord x).life = x.life ∧ (words.foldl audioWord x).parse.state = x.parse.state := by
  induction words generalizing x with
  | nil => exact ⟨rfl, rfl⟩
  | cons w words ih =>
    obtain ⟨life, state⟩ := ih (audioWord x w)
    have one : (audioWord x w).life = x.life ∧ (audioWord x w).parse.state = x.parse.state := by
      unfold audioWord
      repeat' split
      all_goals exact ⟨rfl, rfl⟩
    exact ⟨life.trans one.1, state.trans one.2⟩

theorem steady_readPayload (f : FeedId) (bytes : List Byte) (s : State) : Steady f s (readPayload f bytes s) := by
  have pictures : ∀ (words : List Nat) (u : State), Steady f u (words.foldl (pictureWord f) u) := by
    intro words
    induction words with
    | nil => exact fun u => .refl f u
    | cons w words ih => exact fun u => (steady_pictureWord f u w).trans (ih _)
  unfold readPayload
  split
  · exact pictures _ s
  · obtain ⟨life, state⟩ := audioWords_steady (words32 bytes) (s.feed f)
    exact steady_setFeed (congrArg Lifecycle.presence life) state
  · exact .refl f s

/-! ### Steps that may stop the parser -/

/-- From `s`, where feed `f` runs, to `t` its presence is kept, and its tap entries are purged exactly where it has
stopped. -/
structure Serves (f : FeedId) (s t : State) : Prop where
  presence : (t.feed f).life.presence = (s.feed f).life.presence
  tapQ : (t.feed f).parse.state ≠ .idle ∧ t.tapQ = s.tapQ
    ∨ (t.feed f).parse.state = .idle ∧ t.tapQ = s.tapQ.filter fun e => decide (e.feed ≠ f)

theorem Serves.of_steady {f : FeedId} {s t : State} (running : (s.feed f).parse.state ≠ .idle) (h : Steady f s t) :
    Serves f s t :=
  ⟨h.presence, .inl ⟨by rwa [h.state], h.tapQ⟩⟩

theorem Serves.steady {f : FeedId} {s t u : State} (h : Serves f s t) (k : Steady f t u) : Serves f s u :=
  ⟨k.presence.trans h.presence, by rw [k.state, k.tapQ]; exact h.tapQ⟩

theorem Serves.after {f : FeedId} {s t u : State} (h : Steady f s t) (k : Serves f t u) : Serves f s u :=
  ⟨k.presence.trans h.presence, by rw [← h.tapQ]; exact k.tapQ⟩

theorem serves_stopParser {f : FeedId} {s : State} : Serves f s (stopParser f s) := by
  refine ⟨?_, .inr ⟨?_, rfl⟩⟩ <;> rw [stopParser_feed_self]
  · rw [idleFeed_life]
  · rw [idleFeed_parse]

theorem serves_feedFault (f : FeedId) (cause : FaultCause) (s : State) : Serves f s (feedFault f cause s) := by
  refine ⟨?_, .inr ⟨?_, feedFault_tapQ ..⟩⟩ <;> rw [feedFault_feed]
  · rfl
  · rw [faultedFeed_parse]

theorem serves_closeFrame (f : FeedId) (cause : CloseCause) {s : State} (running : (s.feed f).parse.state ≠ .idle) :
    Serves f s (closeFrame f cause s) := by
  unfold closeFrame
  dsimp only
  repeat' split
  · exact .of_steady running (.refl f s)
  · exact .after (steady_closeTracked f cause s) serves_stopParser
  · exact .of_steady running (steady_closeTracked f cause s)
  · exact .after (steady_modFeed rfl rfl) serves_stopParser
  · exact .of_steady running (steady_modFeed rfl rfl)

theorem openFrame_steady (stamp : Time) (addr : Addr) (h : EssenceHeader) (x : Feed) :
    (openFrame stamp addr h x).life.presence = x.life.presence ∧ (openFrame stamp addr h x).parse = x.parse := by
  unfold openFrame
  dsimp only
  split <;> exact ⟨rfl, rfl⟩

theorem handPayload_steady (test : FrameRecord → Disposition × FrameRecord) (x : Feed) :
    (handPayload test x).1.life.presence = x.life.presence ∧ (handPayload test x).1.parse = x.parse := by
  unfold handPayload
  repeat' split
  all_goals exact ⟨rfl, rfl⟩

theorem countLength_steady (n : Nat) (x : Feed) : (countLength n x).life = x.life ∧ (countLength n x).parse = x.parse := by
  unfold countLength
  split <;> exact ⟨rfl, rfl⟩

theorem serves_handOff (f : FeedId) (stamp : Time) (addr : Addr) (h : EssenceHeader) {s : State}
    (running : (s.feed f).parse.state ≠ .idle) : Serves f s (handOff f stamp addr h s).1 := by
  have counted : ∀ n, Steady f s (s.modFeed f (countLength n)) := fun n =>
    steady_modFeed (congrArg Lifecycle.presence (countLength_steady n _).1)
      (congrArg ParseContext.state (countLength_steady n _).2)
  have handed : ∀ test, Steady f s (s.setFeed f (handPayload test (countLength 32 (s.feed f))).1) := fun test =>
    steady_setFeed ((handPayload_steady test _).1.trans (congrArg Lifecycle.presence (countLength_steady 32 _).1))
      (congrArg ParseContext.state ((handPayload_steady test _).2.trans (countLength_steady 32 _).2))
  unfold handOff
  split
  · unfold handOpen
    dsimp only
    split
    · exact serves_closeFrame f .noClose running
    · exact (serves_closeFrame f .noClose running).steady (steady_modFeed (openFrame_steady stamp addr h _).1
        (congrArg ParseContext.state (openFrame_steady stamp addr h _).2))
  · exact .of_steady running (handed _)
  · exact .of_steady running (handed _)
  · unfold handClose
    split
    · exact .of_steady running (steady_modFeed rfl rfl)
    · exact .after (counted _) (serves_closeFrame f .close (by rwa [(counted _).state]))
  · exact .of_steady running (counted 32)

/-- A running context moved to another state that runs. -/
theorem Serves.onParse {f : FeedId} {s t : State} (h : Serves f s t) (running : (t.feed f).parse.state ≠ .idle)
    {k : ParseContext → ParseContext} (still : (k (t.feed f).parse).state ≠ .idle) :
    Serves f s (t.modFeed f (Feed.onParse k)) := by
  have left : ((t.modFeed f (Feed.onParse k)).feed f) = Feed.onParse k (t.feed f) := State.feed_modFeed_self ..
  obtain ⟨-, kept⟩ | ⟨idle, -⟩ := h.tapQ
  · exact ⟨by rw [left]; exact h.presence, .inl ⟨by rw [left]; exact still, kept⟩⟩
  · exact absurd idle running

theorem enterPayload_running (kind : PacketKind) (len : Nat) (d : Disposition) (c : ParseContext) :
    (enterPayload kind len d c).state ≠ .idle := by
  unfold enterPayload
  split <;> nofun

theorem serves_takeHeader (f : FeedId) (stamp : Time) (addr : Addr) (h : EssenceHeader) {s : State}
    (running : (s.feed f).parse.state ≠ .idle) : Serves f s (takeHeader f stamp addr h s) := by
  have moved : Steady f s (s.modFeed f fun x => x.onParse fun c =>
      { c with cursor := ringNext x.params addr 32, expectedSeq := h.sequence + 1, budget := 0 }) := steady_modFeed rfl rfl
  have handed := Serves.after moved (serves_handOff f stamp addr h (by rwa [moved.state]))
  unfold takeHeader
  dsimp only
  split
  · rename_i runs
    exact handed.onParse (by simpa [Feed.running] using runs) (enterPayload_running _ _ _ _)
  · exact handed

theorem noteGap_steady (gap : Nat) (x : Feed) :
    (noteGap gap x).life.presence = x.life.presence ∧ (noteGap gap x).parse = x.parse := by
  unfold noteGap
  dsimp only
  repeat' split
  all_goals exact ⟨rfl, rfl⟩

theorem serves_parsePosition {f : FeedId} (stamp : Time) (addr : Addr) (bytes : List Byte) {s : State}
    (running : (s.feed f).parse.state ≠ .idle) : Serves f s (parsePosition f stamp addr bytes s) := by
  unfold parsePosition
  split
  · exact absurd ‹_› running
  · have failed : Steady f s (s.modFeed f (failPosition addr)) := steady_modFeed
      (by rw [failPosition_eq, huntedOn_life]) (by rw [failPosition_eq, huntedOn_parse])
    unfold huntPosition
    dsimp only
    repeat' split
    · exact serves_takeHeader f stamp addr _ running
    · exact .after failed (serves_feedFault f .noLock _)
    · exact .of_steady running failed
  · unfold headerPosition
    split
    · rename_i h _
      have noted : Steady f s (s.modFeed f fun x => noteGap (sequenceGap h x) x) :=
        steady_modFeed (noteGap_steady _ _).1 (congrArg ParseContext.state (noteGap_steady _ _).2)
      exact .after noted (serves_takeHeader f stamp addr _ (by rwa [noted.state]))
    · have hunts : ((s.modFeed f (rejectHeader addr)).feed f).parse.state = .hunt := by
        rw [State.feed_modFeed_self, rejectHeader, (countLength_steady 32 _).2]
        rfl
      refine ⟨?_, .inl ⟨by rw [hunts]; nofun, rfl⟩⟩
      rw [State.feed_modFeed_self, rejectHeader, (countLength_steady 32 _).1]
      rfl
  · have read := steady_readPayload f bytes s
    have runs : ((readPayload f bytes s).feed f).parse.state ≠ .idle := by rwa [read.state]
    have consumed : ((payloadPosition f addr bytes s).feed f).parse.state ≠ .idle := by
      rw [payloadPosition, State.feed_modFeed_self, consumePayload, (countLength_steady 32 _).2]
      show ParseContext.state (if _ then _ else _) ≠ _
      split
      · nofun
      · exact runs
    refine ⟨?_, .inl ⟨consumed, read.tapQ⟩⟩
    rw [payloadPosition, State.feed_modFeed_self, consumePayload, (countLength_steady 32 _).1]
    exact read.presence

/-- An IDLE context reads nothing. -/
theorem parsePositions_idle {f : FeedId} (stamp : Time) (addr : Addr) (l : List (List Byte)) {s : State}
    (idle : (s.feed f).parse.state = .idle) : parsePositions f stamp addr l s = s := by
  induction l generalizing addr with
  | nil => rfl
  | cons bytes l ih =>
    have first : parsePosition f stamp addr bytes s = s := by rw [parsePosition, idle]
    rw [parsePositions, first, ih]

/-- The positions of an entry, from a context that runs. -/
theorem serves_parsePositions {f : FeedId} (stamp : Time) (addr : Addr) (l : List (List Byte)) {s : State}
    (running : (s.feed f).parse.state ≠ .idle) : Serves f s (parsePositions f stamp addr l s) := by
  induction l generalizing addr s with
  | nil => exact .of_steady running (.refl f s)
  | cons bytes l ih =>
    have first := serves_parsePosition stamp addr bytes running
    obtain ⟨runs, kept⟩ | ⟨idle, purged⟩ := first.tapQ
    · have rest := ih (addr + 32) runs
      exact ⟨rest.presence.trans first.presence, by rw [← kept]; exact rest.tapQ⟩
    · rw [parsePositions, parsePositions_idle _ _ _ idle]
      exact first

/-! ### The head tap entry -/

/-- The positions of an entry, one by one from the `k`-th. -/
theorem parsePositions_range (f : FeedId) (stamp : Time) (addr : Addr) (bytes : Nat → List Byte) (n k : Nat) (s : State) :
    parsePositions f stamp (addr + BitVec.ofNat 40 (32 * k)) ((List.range' k n).map bytes) s =
      (List.range' k n).foldl (fun v i => parsePosition f stamp (addr + BitVec.ofNat 40 (32 * i)) (bytes i) v) s := by
  induction n generalizing k s with
  | zero => rfl
  | succ n ih =>
    have next : addr + BitVec.ofNat 40 (32 * k) + 32 = addr + BitVec.ofNat 40 (32 * (k + 1)) := by
      rw [BitVec.add_assoc, Nat.mul_add, BitVec.ofNat_add]
      rfl
    rw [List.range'_succ, List.map_cons, List.foldl_cons, parsePositions, next, ih]

/-- An entry of `n` positions is parsed position by position. -/
theorem parsePositions_positions (f : FeedId) (stamp : Time) (addr : Addr) {data : List Byte} {n : Nat}
    (length : data.length = 32 * n) (s : State) : parsePositions f stamp addr (positions data) s =
      (List.range n).foldl (fun v k =>
        parsePosition f stamp (addr + BitVec.ofNat 40 (32 * k)) ((data.drop (32 * k)).take 32) v) s := by
  have whole : data.length / 32 = n := by omega
  have first : addr = addr + BitVec.ofNat 40 (32 * 0) := by simp
  rw [positions, whole, List.range_eq_range']
  conv_lhs => rw [first]
  exact parsePositions_range f stamp addr (fun i => slice data (32 * i) 32) n 0 s

/-- Settles O30: the head entry's feed, and how the entry is parsed. -/
theorem parserServesHead : Obligations.ParserServesHead := by
  unfold Obligations.ParserServesHead
  refine ⟨fun s empty => ?_, fun s e rest queue => ?_, fun s e rest n queue length => ?_⟩
  · simp only [exec, execParseTapEntry, serveTap, empty]
  · have others := local_parseEntry e { s with tapQ := rest }
    have kept := kept_parseEntry e { s with tapQ := rest }
    have served : (s.feed e.feed).parse.state = .idle ∧ parseEntry e { s with tapQ := rest } = { s with tapQ := rest }
        ∨ (s.feed e.feed).parse.state ≠ .idle
          ∧ Serves e.feed { s with tapQ := rest } (parseEntry e { s with tapQ := rest }) := by
      by_cases idle : (s.feed e.feed).parse.state = .idle
      · have whole : isBreak e (s.feed e.feed).parse = false := eq_false_of_ne_true fun c => running_of_isBreak c idle
        refine .inl ⟨idle, ?_⟩
        simp only [parseEntry, State.feed_tapQ, whole, Bool.false_eq_true, if_false]
        exact parsePositions_idle _ _ _ idle
      · refine .inr ⟨idle, ?_⟩
        unfold parseEntry
        dsimp only
        split
        · have broken : (State.modFeed { s with tapQ := rest } e.feed breakFeed).feed e.feed = (s.feed e.feed).broken := by
            rw [State.feed_modFeed_self, breakFeed_eq]
            rfl
          have hunts : ((State.modFeed { s with tapQ := rest } e.feed breakFeed).feed e.feed).parse.state ≠ .idle := by
            rw [broken, broken_parse]
            nofun
          obtain ⟨presence, tapQ⟩ := serves_parsePositions e.stamp e.addr (positions e.data) hunts
          refine ⟨presence.trans ?_, tapQ⟩
          rw [broken, Feed.broken, withOpen_life]
          rfl
        · exact serves_parsePositions _ _ _ idle
    have presence : ((parseEntry e { s with tapQ := rest }).feed e.feed).life.presence = (s.feed e.feed).life.presence := by
      obtain ⟨-, same⟩ | ⟨-, serves⟩ := served
      · rw [same]
        rfl
      · exact serves.presence
    refine ⟨_, exec_parseTapEntry queue, fun still => ?_, fun running stopped => ?_, others.others, kept.ingest, kept.browse,
      kept.defn, presence, kept.published, kept.released, others.forwardQ, others.commands, others.credit, others.engine,
      others.timeBase, others.memPort, others.produced, others.consumed, others.batch, others.noticeProduced,
      others.noticeConsumed⟩
    · obtain ⟨-, same⟩ | ⟨running, -, ⟨-, left⟩ | ⟨idle, -⟩⟩ := served
      · rw [same]
      · exact left
      · exact absurd idle (still.resolve_left running)
    · obtain ⟨idle, -⟩ | ⟨-, -, ⟨runs, -⟩ | ⟨-, purged⟩⟩ := served
      · exact absurd idle running
      · exact absurd stopped runs
      · exact purged
  · intro x parts run
    refine ⟨fun broken => ?_, fun whole => ?_⟩
    · have breaks : isBreak e (s.feed e.feed).parse = true := (isBreak_iff ..).mpr broken
      have tested : State.modFeed { s with tapQ := rest } e.feed breakFeed
        = { s.setFeed e.feed x.broken with tapQ := rest } := by
        rw [State.modFeed, State.feed_tapQ, breakFeed_eq]
        rfl
      rw [exec_parseTapEntry queue, parseEntry]
      simp only [State.feed_tapQ, breaks, if_true, tested]
      exact congrArg Host.Outcome.next (parsePositions_positions _ _ _ length _)
    · have clear : isBreak e (s.feed e.feed).parse = false := eq_false_of_ne_true fun c => whole ((isBreak_iff ..).mp c)
      rw [exec_parseTapEntry queue, parseEntry]
      simp only [State.feed_tapQ, clear, Bool.false_eq_true, if_false]
      exact congrArg Host.Outcome.next (parsePositions_positions _ _ _ length _)

end Sys2Proof.Machine
end

section
/-! The close of a feed's newest record, in the words of the rules, and what a close does not read (chapters 2.6, 2.7, 3.4,
4.4). -/

namespace Sys2Proof.Machine

/-! ### What a close does not read -/

/-- The state with feed `f`'s parse context changed and the tap queue replaced. -/
def State.reparsed (f : FeedId) (k : ParseContext → ParseContext) (q : List TapEntry) (s : State) : State :=
  { s.setFeed f { s.feed f with parse := k (s.feed f).parse } with tapQ := q }

section
variable (f : FeedId) (k : ParseContext → ParseContext) (q : List TapEntry)

theorem reparsed_feed (s : State) : (s.reparsed f k q).feed f = { s.feed f with parse := k (s.feed f).parse } :=
  State.feed_setFeed_self s f _

/-- A change of a feed that does not read its parse context. -/
def ParseBlind (g : Feed → Feed) : Prop := ∀ (x : Feed) (p : ParseContext), g { x with parse := p } = { g x with parse := p }

theorem ParseBlind.parse {g : Feed → Feed} (blind : ParseBlind g) (x : Feed) : (g x).parse = x.parse :=
  (congrArg Feed.parse (blind x x.parse) :)

variable {f}

theorem modFeed_reparsed {g : Feed → Feed} (blind : ParseBlind g) (s : State) :
    (s.reparsed f k q).modFeed f g = (s.modFeed f g).reparsed f k q := by
  have parse := blind.parse (s.feed f)
  show { State.setFeed (s.setFeed f _) f (g ((s.reparsed f k q).feed f)) with tapQ := q } = _
  rw [reparsed_feed, blind, State.setFeed_setFeed]
  show _ = { State.setFeed (s.setFeed f _) f { (s.modFeed f g).feed f with parse := k ((s.modFeed f g).feed f).parse } with
    tapQ := q }
  rw [State.setFeed_setFeed, State.feed_modFeed_self, parse]

theorem makeEntry_reparsed (d : EntryDraft) (s : State) : makeEntry d (s.reparsed f k q) = (makeEntry d s).reparsed f k q := by
  have same : (State.normal (s.reparsed f k q) && quotaRoom (s.reparsed f k q).insQ d.source d.kind)
      = (s.normal && quotaRoom s.insQ d.source d.kind) := rfl
  unfold makeEntry
  rw [same]
  split <;> rfl

theorem stageIndex_reparsed (r : IndexRecord) (s : State) :
    stageIndex r (s.reparsed f k q) = (stageIndex r s).reparsed f k q := by
  have started : ∀ u : State, startBatch (u.reparsed f k q) = (startBatch u).reparsed f k q := fun u => by
    cases defn : u.catalogue.defn with
    | none =>
      have none : (u.reparsed f k q).catalogue.defn = none := defn
      simp only [startBatch, none, defn]
    | some d =>
      have same : batchReady (u.reparsed f k q) d = batchReady u d := rfl
      cases ready : batchReady u d with
      | false => rw [startBatch_unready defn ready, startBatch_unready (s := u.reparsed f k q) defn (same.trans ready)]
      | true =>
        rw [startBatch_ready defn ready, startBatch_ready (s := u.reparsed f k q) defn (same.trans ready)]
        rfl
  obtain ⟨room, eq⟩ | ⟨full, eq⟩ := stageIndex_cases r s <;> rw [eq]
  · obtain ⟨-, eq'⟩ | ⟨full, -⟩ := stageIndex_cases r (s.reparsed f k q)
    · rw [eq', ← started]
      rfl
    · exact absurd room (Nat.not_lt.mpr full)
  · obtain ⟨room, -⟩ | ⟨-, eq'⟩ := stageIndex_cases r (s.reparsed f k q)
    · exact absurd room (Nat.not_lt.mpr full)
    · rw [eq']
      rfl

theorem handRow_reparsed (r : FrameRecord) (slot : Nat) (b : BufferId) (s : State) :
    handRow f r slot b (s.reparsed f k q) = (handRow f r slot b s).reparsed f k q := by
  have handed : handRow f r slot b s
      = { s.modFeed f (handedFeed s.nextRowId r slot b) with nextRowId := s.nextRowId + 1 } := rfl
  have handed' : handRow f r slot b (s.reparsed f k q)
      = { (s.reparsed f k q).modFeed f (handedFeed s.nextRowId r slot b) with nextRowId := s.nextRowId + 1 } := rfl
  rw [handed, handed', modFeed_reparsed k q fun _ _ => rfl]
  rfl

theorem completeBand_reparsed (s : State) : completeBand f (s.reparsed f k q) = (completeBand f s).reparsed f k q := by
  have feed := reparsed_feed f k q s
  cases opened : (s.feed f).openRecord with
  | none =>
    have opened' : ((s.reparsed f k q).feed f).openRecord = none := by rw [feed]; exact opened
    simp only [completeBand, opened, opened']
  | some r =>
    have opened' : ((s.reparsed f k q).feed f).openRecord = some r := by rw [feed]; exact opened
    cases browse : r.slot with
    | none => simp only [completeBand, opened, opened', browse]
    | some slot =>
      by_cases held : (s.feed f).reducer.count = 0 ∧ (s.feed f).reducer.band ≠ 0
      · cases reference : (s.feed f).reducer.reference with
        | none =>
          have reference' : ((s.reparsed f k q).feed f).reducer.reference = none := by rw [feed]; exact reference
          have held' : ((s.reparsed f k q).feed f).reducer.count = 0 ∧ ((s.reparsed f k q).feed f).reducer.band ≠ 0 := by
            rw [feed]; exact held
          simp only [completeBand, opened, opened', browse, reference, reference', if_pos held, if_pos held']
        | some b =>
          rw [completeBand_hold opened browse held reference,
            completeBand_hold opened' browse (by rw [feed]; exact held) (by rw [feed]; exact reference),
            modFeed_reparsed k q fun _ _ => rfl, handRow_reparsed]
      · cases chosen : chooseBuffer (s.feed f).rows (s.feed f).reducer.reference with
        | none =>
          rw [completeBand_abandon opened browse held chosen,
            completeBand_abandon opened' browse (by rw [feed]; exact held) (by rw [feed]; exact chosen)]
          have left : abandon f r s = State.modFeed (withdraw (rowEntryOf f ((s.feed f).rows.items.filter
            fun i => decide (i.serial = r.serial))) s) f (abandonedFeed r) := rfl
          have left' : abandon f r (s.reparsed f k q) = State.modFeed ((withdraw (rowEntryOf f
              (((s.reparsed f k q).feed f).rows.items.filter fun i => decide (i.serial = r.serial))) s).reparsed f k q) f
                (abandonedFeed r) := rfl
          rw [left, left', modFeed_reparsed k q fun _ _ => rfl, feed]
        | some b =>
          rw [completeBand_fill opened browse held chosen,
            completeBand_fill opened' browse (by rw [feed]; exact held) (by rw [feed]; exact chosen), feed,
            ← handRow_reparsed, ← modFeed_reparsed k q fun _ _ => rfl]
          rfl

theorem completeBands_reparsed (n : Nat) (s : State) :
    completeBands f n (s.reparsed f k q) = (completeBands f n s).reparsed f k q := by
  have reducing : ∀ u : State, ((u.reparsed f k q).feed f).reducing = (u.feed f).reducing := fun u => by
    rw [reparsed_feed]
    rfl
  induction n generalizing s with
  | zero => rfl
  | succ n ih =>
    rw [completeBands, completeBands, reducing]
    split
    · rw [completeBand_reparsed, ih]
    · rfl

theorem closeBands_reparsed (height : Nat) (s : State) :
    closeBands f height (s.reparsed f k q) = (closeBands f height s).reparsed f k q := by
  unfold closeBands
  dsimp only
  rw [modFeed_reparsed k q fun _ _ => rfl, completeBands_reparsed, reparsed_feed]
  rfl

theorem finishHead_reparsed (r : FrameRecord) (rest : List FrameRecord) (s : State) :
    finishHead f r rest (s.reparsed f k q) = (finishHead f r rest s).reparsed f k q := by
  unfold finishHead
  rw [modFeed_reparsed k q fun _ _ => rfl, stageIndex_reparsed, reparsed_feed]
  rfl

theorem sealHead_reparsed (r : FrameRecord) (rest : List FrameRecord) (slot : Nat) (s : State) :
    sealHead f r rest slot (s.reparsed f k q) = (sealHead f r rest slot s).reparsed f k q := by
  unfold sealHead
  rw [makeEntry_reparsed, modFeed_reparsed k q fun _ _ => rfl, reparsed_feed]
  rfl

theorem settle_reparsed (n : Nat) (s : State) : settle f n (s.reparsed f k q) = (settle f n s).reparsed f k q := by
  induction n generalizing s with
  | zero => rfl
  | succ n ih =>
    have records : ((s.reparsed f k q).feed f).frame.records = (s.feed f).frame.records := by rw [reparsed_feed]
    cases given : (s.feed f).frame.records with
    | nil => rw [settle, settle, records, given]
    | cons r rest =>
      rw [settle, settle, records, given]
      dsimp only
      split
      · cases r.slot with
        | none => exact (congrArg (settle f n) (finishHead_reparsed k q r rest s)).trans (ih _)
        | some slot => exact sealHead_reparsed k q r rest slot s
      · rfl

end

section
variable {f : FeedId}

/-- The bands that remain of a frame that closes, where it has browse and the reducer is REDUCING (R65). -/
def closingBands (f : FeedId) (r : FrameRecord) (s : State) : State :=
  if r.slot.isSome && (s.feed f).reducing then closeBands f r.height s else s

/-- The close of a tracked frame, its stages named. -/
theorem closeTracked_open {s : State} {r : FrameRecord} (cause : CloseCause) (opened : (s.feed f).openRecord = some r) :
    closeTracked f cause s = settleFeed f ((closingBands f r
      (s.modFeed f fun x => x.onOpen (closingRecord cause x.frame.peaks))).modFeed f closedFeed) := by
  have reducing : ((s.modFeed f fun x => x.onOpen (closingRecord cause x.frame.peaks)).feed f).reducing
      = (s.feed f).reducing := by
    rw [State.feed_modFeed_self]
    rfl
  unfold closeTracked closingBands
  simp only [opened, reducing]
  rfl

theorem closingBands_reparsed (k : ParseContext → ParseContext) (q : List TapEntry) (r : FrameRecord) (s : State) :
    closingBands f r (s.reparsed f k q) = (closingBands f r s).reparsed f k q := by
  have reducing : ((s.reparsed f k q).feed f).reducing = (s.feed f).reducing := by
    rw [reparsed_feed]
    rfl
  unfold closingBands
  rw [reducing]
  split
  · exact closeBands_reparsed k q r.height s
  · rfl

theorem closeTracked_reparsed (k : ParseContext → ParseContext) (q : List TapEntry) {s : State} {r : FrameRecord}
    (cause : CloseCause) (opened : (s.feed f).openRecord = some r) :
    closeTracked f cause (s.reparsed f k q) = (closeTracked f cause s).reparsed f k q := by
  have opened' : ((s.reparsed f k q).feed f).openRecord = some r := by
    rw [reparsed_feed]
    exact opened
  have settled : ∀ u : State, settleFeed f (u.reparsed f k q) = (settleFeed f u).reparsed f k q := fun u => by
    rw [settleFeed, settleFeed, reparsed_feed, settle_reparsed]
  rw [closeTracked_open cause opened, closeTracked_open cause opened', modFeed_reparsed k q fun _ _ => rfl,
    closingBands_reparsed, modFeed_reparsed k q fun _ _ => rfl, settled]

/-! ### The newest record closes -/

/-- The flag a cause of a close sets (R40). -/
def CloseCause.flag : CloseCause → BitVec 16
  | .close => 0
  | .noClose => 0x0002
  | .lost => 0x0004

theorem closingRecord_eq (cause : CloseCause) (peaks : Vector Nat 8) (r : FrameRecord) :
    closingRecord cause peaks r = r.closing cause.flag peaks := by
  have zero : ∀ c : BitVec 16, c ||| 0 = c := fun c => BitVec.or_zero
  have mask : Condition.linesMissing.mask = 0x0800#16 := rfl
  have flagged : closingRecord cause peaks r = FrameRecord.flagIf (decide (r.height - r.linesReceived ≠ 0)) .linesMissing
      { r with
        conditions := r.conditions ||| cause.flag, linesMissing := r.height - r.linesReceived, peaks := peaks } := by
    cases cause
    · rw [show r.conditions ||| CloseCause.flag .close = r.conditions from zero r.conditions]
      rfl
    · rfl
    · rfl
  rw [flagged, FrameRecord.closing, FrameRecord.flagIf]
  by_cases all : r.height ≤ r.linesReceived
  · have none : decide (r.height - r.linesReceived ≠ 0) = false := decide_eq_false (by omega)
    rw [if_pos all]
    simp only [none, Bool.false_eq_true, if_false, zero]
  · have some : decide (r.height - r.linesReceived ≠ 0) = true := decide_eq_true (by omega)
    rw [if_neg all]
    simp only [some, if_true, FrameRecord.flag, setCondition, mask]

/-- The newest record of a list is its one OPEN record. -/
def Newest (front : List FrameRecord) (r : FrameRecord) (records : List FrameRecord) : Prop :=
  records = front ++ [r] ∧ r.state = .opened ∧ ∀ q ∈ front, q.state ≠ .opened

theorem Newest.openRecord {front : List FrameRecord} {r : FrameRecord} {x : Feed} (h : Newest front r x.frame.records) :
    x.openRecord = some r := by
  obtain ⟨records, opened, others⟩ := h
  rw [Feed.openRecord, records, List.find?_append, List.find?_eq_none.mpr fun q hq => by
    rw [decide_eq_true_eq]; exact others q hq]
  simp [opened]

/-- A change of the open record alone. -/
theorem Newest.map {front : List FrameRecord} {r : FrameRecord} {records : List FrameRecord} (h : Newest front r records)
    (g : FrameRecord → FrameRecord) : records.map (fun q => if q.state = .opened then g q else q) = front ++ [g r] := by
  obtain ⟨rfl, opened, others⟩ := h
  rw [List.map_append, List.map_cons, List.map_nil, if_pos opened]
  exact congrArg (· ++ [g r]) ((List.map_congr_left fun q hq => if_neg (others q hq)).trans (List.map_id _))

/-- A completed band changes the open record alone, and not its state. -/
theorem completeBand_records (f : FeedId) (s : State) : ∃ g : FrameRecord → FrameRecord, (∀ q, (g q).state = q.state) ∧
    ((completeBand f s).feed f).frame.records =
      (s.feed f).frame.records.map fun q => if q.state = .opened then g q else q := by
  have same : ∃ g : FrameRecord → FrameRecord, (∀ q, (g q).state = q.state) ∧ (s.feed f).frame.records =
      (s.feed f).frame.records.map fun q => if q.state = .opened then g q else q :=
    ⟨id, fun _ => rfl, by simp⟩
  have handed : ∀ (r : FrameRecord) (slot : Nat) (b : BufferId) (k : Feed → Feed),
      (k (s.feed f)).frame.records = (s.feed f).frame.records →
      ∃ g : FrameRecord → FrameRecord, (∀ q, (g q).state = q.state) ∧
        ((handRow f r slot b (s.modFeed f k)).feed f).frame.records =
          (s.feed f).frame.records.map fun q => if q.state = .opened then g q else q := by
    intro r slot b k kept
    refine ⟨fun q => { q with rowsQueued := q.rowsQueued + 1 }, fun _ => rfl, ?_⟩
    have e : (handRow f r slot b (s.modFeed f k)).feed f
        = handedFeed s.nextRowId r slot b ((s.modFeed f k).feed f) := State.feed_setFeed_self ..
    rw [e, State.feed_modFeed_self, ← kept]
    rfl
  unfold completeBand
  dsimp only
  repeat' split
  · exact same
  · exact same
  · exact same
  · exact handed _ _ _ _ rfl
  · refine ⟨fun q => { q with reason := .abandoned, slot := none }, fun _ => rfl, ?_⟩
    rw [abandon, State.feed_modFeed_self, withdraw_feed]
    rfl
  · exact handed _ _ _ _ rfl

/-- Bands that complete leave the records before the open one. -/
theorem completeBands_newest (n : Nat) {front : List FrameRecord} {r : FrameRecord} {s : State}
    (h : Newest front r (s.feed f).frame.records) :
    ∃ q, Newest front q ((completeBands f n s).feed f).frame.records := by
  induction n generalizing s r with
  | zero => exact ⟨r, h⟩
  | succ n ih =>
    rw [completeBands]
    split
    · obtain ⟨g, same, records⟩ := completeBand_records f s
      have next : Newest front (g r) ((completeBand f s).feed f).frame.records :=
        ⟨records.trans (h.map g), (same r).trans h.2.1, h.2.2⟩
      exact ih next
    · exact ⟨r, h⟩

theorem completeBands_idle (n : Nat) {s : State} (idle : (s.feed f).reducing = false) : completeBands f n s = s := by
  cases n with
  | zero => rfl
  | succ n => rw [completeBands, idle]; rfl

/-- The bands of a closing frame, in the words of the rules. -/
theorem closingBands_eq (r q : FrameRecord) {s : State} (x : Feed) (slot : q.slot = r.slot) (height : q.height = r.height) :
    closingBands f q (s.setFeed f x) = if r.slot = none then s.setFeed f x
      else bandsComplete f (r.height / x.params.decimation - x.reducer.band)
        (s.setFeed f { x with reducer := x.reducer.dropLine }) := by
  unfold closingBands
  rw [slot, State.feed_setFeed_self]
  cases r.slot with
  | none => rfl
  | some n =>
    rw [if_neg (show ¬ some n = none by nofun), bandsComplete_eq]
    cases mode : x.reducer.mode with
    | idle =>
      have idle : x.reducing = false := decide_eq_false (by rw [mode]; nofun)
      have same : x.reducer.dropLine = x.reducer := by unfold Reducer.dropLine; rw [mode]
      rw [idle, same, completeBands_idle _ (by rw [State.feed_setFeed_self]; exact idle)]
      rfl
    | reducing =>
      have reducing : x.reducing = true := decide_eq_true mode
      rw [reducing]
      simp only [Option.isSome_some, Bool.and_self, if_true]
      rw [closeBands, State.feed_setFeed_self, State.setFeed_modFeed, height]

theorem closedAlone_none {q : FrameRecord} (slot : q.slot = none) (s : State) : s.closedAlone f q =
    stageIndex (indexRecord f (s.feed f).params q) (State.closedList f [] (s.setFeed f (Feed.count
      (fun c => { c with browseAbsent := min 4294967295 (c.browseAbsent + 1) }) (s.feed f)))) := by
  unfold State.closedAlone
  simp only [slot]
  rfl

theorem closedAlone_seal {q : FrameRecord} {n : Nat} (slot : q.slot = some n) (every : q.rowsAnswered = q.rowsQueued)
    (s : State) : s.closedAlone f q = (s.headerMade f n q).closedList f [{ q with state := .sealing }] := by
  unfold State.closedAlone
  simp only [slot, every, if_true]

theorem closedAlone_wait {q : FrameRecord} {n : Nat} (slot : q.slot = some n) (waits : q.rowsAnswered ≠ q.rowsQueued)
    (s : State) : s.closedAlone f q = s.closedList f [{ q with state := .closed }] := by
  unfold State.closedAlone
  simp only [slot, waits, if_false]

/-- A closed record that is alone in its list is DONE, SEALING, or waits (R44 to R46). -/
theorem settle_alone (q : FrameRecord) (s : State) :
    settleFeed f (s.closedList f [{ q with state := .closed }]) = s.closedAlone f q := by
  let p : FrameRecord := { q with state := .closed }
  let y : Feed := { s.feed f with frame := { (s.feed f).frame with records := [p], openFrame := .none } }
  have feed : (s.setFeed f y).feed f = y := State.feed_setFeed_self ..
  have records : ((s.setFeed f y).feed f).frame.records = [p] := by rw [feed]
  show settleFeed f (s.setFeed f y) = _
  rw [settleFeed, records, List.length_singleton]
  obtain slot | ⟨n, slot⟩ := Option.eq_none_or_eq_some q.slot
  · have finished : finishedFeed p [] y = { Feed.count (fun c => { c with browseAbsent := min 4294967295 (c.browseAbsent + 1) })
        (s.feed f) with frame := { (s.feed f).frame with records := [], openFrame := .none } } := by
      rw [finishedFeed_none (r := p) slot]
      rfl
    rw [settle_done records rfl slot, finishHead_eq, feed, finished, stageIndex_setFeed, State.setFeed_setFeed,
      closedAlone_none slot, State.closedList, State.feed_setFeed_self, State.setFeed_setFeed, stageIndex_setFeed]
    rfl
  · by_cases every : q.rowsAnswered = q.rowsQueued
    · rw [settle_seal records rfl slot every, sealHead_eq, feed, closedAlone_seal slot every, State.closedList, headerMade_feed,
        headerMade_setFeed f n p s (y := y) rfl, State.setFeed_setFeed]
      rfl
    · rw [closedAlone_wait slot every]
      refine settle_unready _ fun z hz => ?_
      rw [records] at hz
      cases hz
      exact fun ready => ready.2.elim (fun absent => by rw [show q.slot = .none from absent] at slot; cases slot) every

/-- The newest record, the tracked open frame's, is CLOSED, and the frame is no more open. -/
theorem modFeed_closedFeed {front : List FrameRecord} {q : FrameRecord} {s : State}
    (newest : Newest front q (s.feed f).frame.records) :
    s.modFeed f closedFeed = s.closedList f (front ++ [{ q with state := .closed }]) := by
  have records := newest.map fun r => { r with state := .closed }
  rw [State.modFeed, State.closedList, ← records]
  rfl

/-- The newest record's fields at the close fixed, and the bands that remain of a frame with browse complete. -/
def State.closedBands (f : FeedId) (flag : BitVec 16) (r : FrameRecord) (s : State) : State :=
  let x := s.feed f
  let records := x.frame.records.dropLast ++ [r.closing flag x.frame.peaks]
  if r.slot = none then s.setFeed f { x with frame := { x.frame with records := records } }
  else bandsComplete f (r.height / x.params.decimation - x.reducer.band) (s.setFeed f { x with
    frame := { x.frame with records := records }, reducer := x.reducer.dropLine })

/-- The close of the newest record, by the records before it. -/
theorem closedNewest_eq {flag : BitVec 16} {r q : FrameRecord} {s : State} {front : List FrameRecord}
    (list : ((s.closedBands f flag r).feed f).frame.records = front ++ [q]) : State.closedNewest f flag r s =
      if front = [] then (s.closedBands f flag r).closedAlone f q
      else (s.closedBands f flag r).closedList f (front ++ [{ q with state := .closed }]) := by
  unfold State.closedBands at list ⊢
  unfold State.closedNewest
  cases front with
  | nil => simp only [list, List.nil_append, List.dropLast_singleton, List.getLast?_singleton, if_true]
  | cons p front => simp only [list, List.dropLast_concat, List.getLast?_concat, reduceCtorEq, if_false]

/-- The bands of a close leave the records before the newest. -/
theorem closedBands_newest (flag : BitVec 16) {r : FrameRecord} {s : State} {front : List FrameRecord}
    (newest : Newest front r (s.feed f).frame.records) :
    ∃ q, Newest front q ((s.closedBands f flag r).feed f).frame.records := by
  have marks : Newest front (r.closing flag (s.feed f).frame.peaks)
      ((s.feed f).frame.records.dropLast ++ [r.closing flag (s.feed f).frame.peaks]) :=
    ⟨by rw [newest.1, List.dropLast_concat], newest.2⟩
  unfold State.closedBands
  dsimp only
  split
  · exact ⟨_, by rw [State.feed_setFeed_self]; exact marks⟩
  · rw [bandsComplete_eq]
    exact completeBands_newest _ (by rw [State.feed_setFeed_self]; exact marks)

/-- The stages of a tracked close before the record is CLOSED. -/
theorem closingBands_newest (cause : CloseCause) {r : FrameRecord} {s : State} {front : List FrameRecord}
    (newest : Newest front r (s.feed f).frame.records) :
    closingBands f r (s.modFeed f fun x => x.onOpen (closingRecord cause x.frame.peaks)) = s.closedBands f cause.flag r := by
  let x := s.feed f
  let marked : Feed := { x with frame := { x.frame with
    records := x.frame.records.dropLast ++ [r.closing cause.flag x.frame.peaks] } }
  have closing : x.frame.records.map (fun q => if q.state = .opened then closingRecord cause x.frame.peaks q else q)
      = x.frame.records.dropLast ++ [r.closing cause.flag x.frame.peaks] := by
    rw [newest.map, closingRecord_eq, newest.1, List.dropLast_concat]
  have mark : s.modFeed f (fun x => x.onOpen (closingRecord cause x.frame.peaks)) = s.setFeed f marked := by
    rw [State.modFeed, Feed.onOpen, closing]
  rw [mark]
  exact closingBands_eq r r marked rfl rfl

/-- The close of a tracked frame whose record is the newest, in the words of the rules (R42). -/
theorem closeTracked_newest {s : State} {r : FrameRecord} (cause : CloseCause) (framing : (s.feed f).framing r) :
    closeTracked f cause s = State.closedNewest f cause.flag r s := by
  obtain ⟨tracked, opened, front, records, others, unready⟩ := framing
  have newest : Newest front r (s.feed f).frame.records := ⟨records, opened, others⟩
  obtain ⟨q, newest'⟩ := closedBands_newest cause.flag newest
  rw [closeTracked_open cause newest.openRecord, closingBands_newest cause newest, modFeed_closedFeed newest',
    closedNewest_eq newest'.1]
  cases front with
  | nil => exact settle_alone q _
  | cons p front =>
    refine settle_unready _ fun z hz => ?_
    rw [State.closedList, State.feed_setFeed_self] at hz
    cases hz
    exact unready p rfl

end

end Sys2Proof.Machine
end

section
/-! A header met at a lock or at the cursor: the common part of every hand-off, and the close of an open frame inside one
(chapters 1.4, 1.5, 2.3, 2.6). -/

namespace Sys2Proof.Machine

section
variable {f : FeedId}

/-! ### The header is met -/

/-- The parse context as a header at an address is met (R14, R17). -/
def headerParse (p : FeedDef) (addr : Addr) (h : EssenceHeader) (c : ParseContext) : ParseContext :=
  { c with cursor := cursorPast p addr, expectedSeq := h.sequence + 1, budget := 0 }

/-- What follows a hand-off: the payload is entered where the context still runs (R20). -/
def entered (f : FeedId) (h : EssenceHeader) (r : State × Disposition) : State :=
  if (r.1.feed f).running then r.1.modFeed f (Feed.onParse (enterPayload h.kind h.len r.2)) else r.1

theorem takeHeader_eq (f : FeedId) (stamp : Time) (addr : Addr) (h : EssenceHeader) (s : State) :
    takeHeader f stamp addr h s = entered f h (handOff f stamp addr h (s.setFeed f
      { s.feed f with parse := headerParse (s.feed f).params addr h (s.feed f).parse })) := by
  rw [headerParse, ← ringNext_eq]
  rfl

theorem gapNoted_parse (gap : Nat) (x : Feed) : (x.gapNoted gap).parse = x.parse := by
  rw [← noteGap_eq]
  exact (noteGap_steady gap x).2

theorem gapNoted_life (gap : Nat) (x : Feed) : ∃ n, (x.gapNoted gap).life =
    { x.life with counters := { x.life.counters with sequenceGaps := n } } := by
  unfold Feed.gapNoted
  split
  · exact ⟨_, rfl⟩
  · exact ⟨_, withOpen_life ..⟩

theorem gapNoted_params (gap : Nat) (x : Feed) : (x.gapNoted gap).params = x.params := by
  obtain ⟨n, life⟩ := gapNoted_life gap x
  rw [Feed.params, life]
  rfl

/-- A gap of a feed whose open frame has no record is the feed's alone. -/
theorem gapNoted_untracked (gap : Nat) {x : Feed} (untracked : x.frame.openFrame ≠ .tracked) :
    ∃ n, x.gapNoted gap = { x with life := { x.life with counters := { x.life.counters with sequenceGaps := n } } } := by
  unfold Feed.gapNoted
  split
  · exact ⟨_, rfl⟩
  · exact ⟨_, if_neg untracked⟩

/-- An entry of one position that holds a valid header, at a lock or at the cursor: the header is handed off by the feed
with its gap noted and its context past the header. -/
theorem header_met {s : State} {e : TapEntry} {rest : List TapEntry} {h : EssenceHeader} (queue : s.tapQ = e :: rest)
    (length : e.data.length = 32) (meets : (s.feed e.feed).meetsHeader e)
    (read : readHeader (s.feed e.feed).params.tag e.data = some h) :
    exec .parseTapEntry s = .next (entered e.feed h (handOff e.feed e.stamp e.addr h
      ((s.setFeed e.feed ((s.feed e.feed).gapNoted ((s.feed e.feed).gapAt h))).reparsed e.feed
        (headerParse (s.feed e.feed).params e.addr h) rest))) := by
  let f := e.feed
  let x := s.feed f
  let y := x.gapNoted (x.gapAt h)
  have meant : State.setFeed (State.setFeed { s with tapQ := rest } f y) f
        { y with parse := headerParse y.params e.addr h y.parse }
      = (s.setFeed f y).reparsed f (headerParse x.params e.addr h) rest := by
    rw [State.reparsed, State.feed_setFeed_self, State.setFeed_setFeed, State.setFeed_setFeed, gapNoted_params]
    rfl
  have taken : parsePosition f e.stamp e.addr e.data { s with tapQ := rest }
      = takeHeader f e.stamp e.addr h (State.setFeed { s with tapQ := rest } f y) := by
    obtain hunt | ⟨state, -⟩ := meets
    · have none : y = x := by
        have gap : x.gapAt h = 0 := if_neg (by rw [show x.parse.state = .hunt from hunt]; nofun)
        exact (congrArg (fun n => x.gapNoted n) gap).trans (gapNoted_zero x)
      rw [none, show State.setFeed { s with tapQ := rest } f x = { s with tapQ := rest } from State.setFeed_self ..]
      simp only [parsePosition, State.feed_tapQ, f, hunt, huntPosition, read]
    · have gap : x.gapAt h = sequenceGap h x := if_pos state
      have noted : noteGap (sequenceGap h x) x = y := by rw [noteGap_eq, ← gap]
      simp only [parsePosition, State.feed_tapQ, f, state, headerPosition, read]
      exact congrArg (fun y => takeHeader f e.stamp e.addr h (State.setFeed { s with tapQ := rest } f y)) noted
  rw [parseTapEntry_one queue length (isBreak_of_meetsHeader meets), taken, takeHeader_eq, State.feed_setFeed_self, meant]

/-- The context of a feed stands past a header. -/
def Feed.Past (addr : Addr) (h : EssenceHeader) (x : Feed) : Prop :=
  x.parse.state ≠ .idle ∧ ∃ c, x.parse = headerParse x.params addr h c

theorem pastHeader_eq {addr : Addr} {h : EssenceHeader} {x : Feed} (past : x.Past addr h) (d : Disposition) :
    x.onParse (enterPayload h.kind h.len d) = x.pastHeader addr h d := by
  obtain ⟨-, c, parse⟩ := past
  rw [Feed.onParse, Feed.pastHeader, parse, enterPayload]
  split <;> rename_i empty
  · rw [empty]
    rfl
  · rfl

/-- A hand-off that leaves the context running. -/
theorem entered_past {addr : Addr} {h : EssenceHeader} {u : State} (past : (u.feed f).Past addr h) (d : Disposition) :
    entered f h (u, d) = u.setFeed f ((u.feed f).pastHeader addr h d) := by
  rw [entered, if_pos (by simpa [Feed.running] using past.1), ← pastHeader_eq past]
  rfl

/-- A hand-off that has made the context IDLE. -/
theorem entered_idle {h : EssenceHeader} {u : State} (idle : (u.feed f).parse.state = .idle) (d : Disposition) :
    entered f h (u, d) = u := by
  rw [entered, if_neg (by simp [Feed.running, idle])]

theorem meetsHeader_running {x : Feed} {e : TapEntry} (meets : x.meetsHeader e) : x.parse.state ≠ .idle := by
  obtain state | ⟨state, -⟩ := meets <;> rw [state] <;> nofun

/-- A feed change past the header, where it reads and writes no parse context. -/
theorem entered_reparsed {addr : Addr} {h : EssenceHeader} {rest : List TapEntry} {s : State} {y z : Feed} {p : FeedDef}
    {d : Disposition} {u : State} (running : y.parse.state ≠ .idle) (params : z.params = p) (parse : z.parse = y.parse)
    (handed : u = (s.setFeed f z).reparsed f (headerParse p addr h) rest) :
    entered f h (u, d) = { s.setFeed f (z.pastHeader addr h d) with tapQ := rest } := by
  have feed : u.feed f = { z with parse := headerParse p addr h z.parse } := by
    rw [handed, reparsed_feed, State.feed_setFeed_self]
  have past : (u.feed f).Past addr h := by
    rw [feed]
    exact ⟨show z.parse.state ≠ .idle by rw [parse]; exact running, z.parse, by rw [← params]; rfl⟩
  rw [entered_past past, feed, handed]
  show { State.setFeed (State.setFeed (s.setFeed f z) f _) f _ with tapQ := rest } = _
  rw [State.setFeed_setFeed, State.setFeed_setFeed]
  rfl

/-! ### The parser stops -/

theorem idleFeed_eq (x : Feed) : ∃ r : Reducer, (r = x.reducer ∨ r = x.reducer.dropLine) ∧ idleFeed x = { x with
    parse := { x.parse with state := .idle, residue := 0, packet := none, budget := 0 },
    frame := { x.frame with retirePending := false }, missPending := false, reducer := r } := by
  have dropped := discardLine_eq x
  refine ⟨(discardLine x).reducer, ?_, by rw [idleFeed, dropped]⟩
  unfold discardLine
  repeat' split
  · exact .inr rfl
  · exact .inl rfl
  · exact .inl rfl

/-- The parser's stop, on a state whose context differs in what a stop clears. -/
theorem stopParser_stops {s u : State} {p : ParseContext} (same : u = s.setFeed f { s.feed f with parse := p })
    (cursor : p.cursor = (s.feed f).parse.cursor) (seq : p.expectedSeq = (s.feed f).parse.expectedSeq) :
    State.stops f u (stopParser f s) := by
  obtain ⟨r, reducer, eq⟩ := idleFeed_eq (s.feed f)
  refine ⟨r, ?_, ?_⟩
  · rw [same, State.feed_setFeed_self]
    exact reducer
  · rw [stopParser, State.modFeed, eq, same, State.feed_setFeed_self, State.setFeed_setFeed]
    simp only [cursor, seq]
    rfl

theorem stopParser_idle (s : State) : ((stopParser f s).feed f).parse.state = .idle := by
  rw [stopParser_feed_self, idleFeed_parse]

/-! ### An open frame closes inside a hand-off -/

/-- `c` is `s` after the close of its open frame: an untracked frame, or the newest record's (R42). -/
def State.Closes (f : FeedId) (flag : BitVec 16) (s c : State) : Prop :=
  (s.feed f).frame.openFrame = .untracked ∧ c = s.closedList f (s.feed f).frame.records
    ∨ ∃ r, (s.feed f).framing r ∧ c = State.closedNewest f flag r s

/-- What a close keeps of its feed and of the tap queue. -/
theorem closes_kept {cause : CloseCause} {s c : State} (closes : s.Closes f cause.flag c) :
    Framed (s.feed f) (c.feed f) ∧ (c.feed f).frame.openFrame = .none ∧ c.tapQ = s.tapQ := by
  obtain ⟨-, rfl⟩ | ⟨r, framing, rfl⟩ := closes
  · refine ⟨?_, ?_, rfl⟩ <;> rw [State.closedList, State.feed_setFeed_self]
    exact ⟨rfl, rfl, rfl, rfl, rfl, rfl, rfl⟩
  · rw [← closeTracked_newest cause framing]
    obtain ⟨framed, shut⟩ := framed_closeTracked f cause s
    exact ⟨framed, shut, (steady_closeTracked f cause s).tapQ⟩

theorem framing_newest {x : Feed} {r : FrameRecord} (framing : x.framing r) : x.openRecord = some r := by
  obtain ⟨-, opened, front, records, others, -⟩ := framing
  exact Newest.openRecord ⟨records, opened, others⟩

/-- The close of the open frame, whatever the parse context and the tap queue hold. -/
theorem closeFrame_closes (k : ParseContext → ParseContext) (q : List TapEntry) {cause : CloseCause} {s c : State}
    (closes : s.Closes f cause.flag c) : closeFrame f cause (s.reparsed f k q) =
      if (s.feed f).frame.retirePending then stopParser f (c.reparsed f k q) else c.reparsed f k q := by
  have retiring : ((s.reparsed f k q).feed f).frame.retirePending = (s.feed f).frame.retirePending := by rw [reparsed_feed]
  have state : ((s.reparsed f k q).feed f).frame.openFrame = (s.feed f).frame.openFrame := by rw [reparsed_feed]
  obtain ⟨untracked, rfl⟩ | ⟨r, framing, rfl⟩ := closes
  · have closed : (s.reparsed f k q).modFeed f (fun x => { x with frame := { x.frame with openFrame := .none } })
        = (s.closedList f (s.feed f).frame.records).reparsed f k q := modFeed_reparsed k q (fun _ _ => rfl) s
    rw [closeFrame, retiring, state, untracked]
    exact (congrArg (fun c => if (s.feed f).frame.retirePending then stopParser f c else c) closed :)
  · have closed : closeTracked f cause (s.reparsed f k q) = (State.closedNewest f cause.flag r s).reparsed f k q := by
      rw [closeTracked_reparsed k q cause (framing_newest framing), closeTracked_newest cause framing]
    rw [closeFrame, retiring, state, framing.1]
    exact (congrArg (fun c => if (s.feed f).frame.retirePending then stopParser f c else c) closed :)

theorem framed_params {x y : Feed} (framed : Framed x y) : y.params = x.params := by
  have defn : y.life.defn = x.life.defn := (congrArg Lifecycle.defn framed.life :)
  rw [Feed.params, defn]
  rfl

/-- A close inside a hand-off, no retirement pending: the payload is entered behind it. -/
theorem closed_entered {cause : CloseCause} {s c : State} {addr : Addr} {h : EssenceHeader} {p : FeedDef}
    (closes : s.Closes f cause.flag c) (params : (s.feed f).params = p) (running : (s.feed f).parse.state ≠ .idle)
    (d : Disposition) (q : List TapEntry) : entered f h (c.reparsed f (headerParse p addr h) q, d)
      = { c.setFeed f ((c.feed f).pastHeader addr h d) with tapQ := q } := by
  obtain ⟨framed, -, -⟩ := closes_kept closes
  refine entered_reparsed (y := s.feed f) running ((framed_params framed).trans params) framed.parse ?_
  rw [State.setFeed_self]

/-- A close inside a hand-off under retire pending: the context is then IDLE and its tap entries are purged. -/
theorem closed_stops (c : State) (addr : Addr) (h : EssenceHeader) {p : FeedDef} (params : (c.feed f).params = p)
    (d : Disposition) (q : List TapEntry) :
    State.stops f { c.setFeed f ((c.feed f).pastHeader addr h d) with tapQ := q }
      (stopParser f (c.reparsed f (headerParse p addr h) q)) := by
  have feed := reparsed_feed f (headerParse p addr h) q c
  refine stopParser_stops (p := ((c.feed f).pastHeader addr h d).parse) ?_ ?_ ?_
  · rw [feed, State.reparsed]
    show _ = { State.setFeed (c.setFeed f _) f _ with tapQ := q }
    rw [State.setFeed_setFeed]
    rfl
  · rw [feed, ← params]
    rfl
  · rw [feed]
    rfl

end

end Sys2Proof.Machine
end

section
/-! The OPEN header (chapters 1.4, 1.5, 2.2, 2.3). -/

namespace Sys2Proof.Machine

section
variable {f : FeedId}

/-- A frame opens tracked while fewer than four records are in the list (R30). -/
theorem openFrame_tracked (stamp : Time) (addr : Addr) (h : EssenceHeader) {x : Feed} (room : x.frame.records.length < 4) :
    openFrame stamp addr h x = openTracked x.frame.nextSerial
      (checkTimecode x.params.rateCode x.frame.expectedTimecode h.timecode) stamp addr h
      (openSerial (checkTimecode x.params.rateCode x.frame.expectedTimecode h.timecode) x) := if_pos room

/-- A frame opens untracked with four records in the list (R30). -/
theorem openFrame_untracked (stamp : Time) (addr : Addr) (h : EssenceHeader) {x : Feed} (full : 4 ≤ x.frame.records.length) :
    openFrame stamp addr h x = openUntracked
      (openSerial (checkTimecode x.params.rateCode x.frame.expectedTimecode h.timecode) x) := if_neg (Nat.not_lt.mpr full)

theorem parseBlind_openFrame (stamp : Time) (addr : Addr) (h : EssenceHeader) : ParseBlind (openFrame stamp addr h) := by
  intro x p
  obtain room | full := Nat.lt_or_ge x.frame.records.length 4
  · rw [openFrame_tracked stamp addr h room, openFrame_tracked (x := { x with parse := p }) stamp addr h room]
    rfl
  · rw [openFrame_untracked stamp addr h full, openFrame_untracked (x := { x with parse := p }) stamp addr h full]
    rfl

theorem openFrame_params (stamp : Time) (addr : Addr) (h : EssenceHeader) (x : Feed) :
    (openFrame stamp addr h x).params = x.params := by
  unfold openFrame
  dsimp only
  split <;> rfl

/-- The hand-off of an OPEN header that finds no frame open, and no retirement pending. -/
theorem handOpen_entered {s : State} {stamp : Time} {addr : Addr} {h : EssenceHeader} {p : FeedDef} (q : List TapEntry)
    (kind : h.kind = .opening) (shut : (s.feed f).frame.openFrame = .none) (stays : (s.feed f).frame.retirePending = false)
    (running : (s.feed f).parse.state ≠ .idle) (params : (s.feed f).params = p) :
    entered f h (handOff f stamp addr h (s.reparsed f (headerParse p addr h) q))
      = { s.setFeed f ((openFrame stamp addr h (s.feed f)).pastHeader addr h .skip) with tapQ := q } := by
  have feed := reparsed_feed f (headerParse p addr h) q s
  have shut' : ((s.reparsed f (headerParse p addr h) q).feed f).frame.openFrame = .none := by rw [feed]; exact shut
  have stays' : ((s.reparsed f (headerParse p addr h) q).feed f).frame.retirePending = false := by rw [feed]; exact stays
  have opens : handOff f stamp addr h (s.reparsed f (headerParse p addr h) q)
      = ((s.modFeed f (openFrame stamp addr h)).reparsed f (headerParse p addr h) q, .skip) := by
    simp only [handOff, kind, handOpen, closeFrame, shut', stays', Bool.false_eq_true, if_false]
    rw [modFeed_reparsed _ _ (parseBlind_openFrame stamp addr h)]
  rw [opens]
  exact entered_reparsed running ((openFrame_params ..).trans params) ((parseBlind_openFrame stamp addr h).parse _) rfl

/-- The browse decision, by its tests (R32). -/
theorem browseReason_eq (x : Feed) (w h : Nat) : browseReason x w h =
    if x.life.state = .suspended then .suspended
    else if ¬ (64 ≤ w ∧ w ≤ 4096 ∧ w % (2 * x.params.decimation) = 0 ∧ 16 ≤ h ∧ h ≤ 4096 ∧ h % x.params.decimation = 0) then
      .geometry
    else if x.params.slotSize < 64 + (2 * w / x.params.decimation + 31) / 32 * 32 * (h / x.params.decimation) then .slotSize
    else if (x.publisher.assigned - x.publisher.released).toNat = x.params.slotCount then .ringFull
    else .none := by
  have usable : ((!geometryUsable x.params.decimation w h) = true) ↔ ¬ (64 ≤ w ∧ w ≤ 4096 ∧ w % (2 * x.params.decimation) = 0
      ∧ 16 ≤ h ∧ h ≤ 4096 ∧ h % x.params.decimation = 0) := by
    simp only [geometryUsable, Bool.not_eq_true', ← Bool.not_eq_true, Bool.and_eq_true, decide_eq_true_eq, and_assoc]
  have full : ringFull x = true ↔ (x.publisher.assigned - x.publisher.released).toNat = x.params.slotCount :=
    decide_eq_true_iff
  unfold browseReason
  exact if_congr Iff.rfl rfl (if_congr usable rfl (if_congr Iff.rfl rfl (if_congr full rfl rfl)))

/-- The flag of a timecode check is one of three. -/
theorem checkTimecode_flag (code : Nat) (expected : Option Timecode) (t : Timecode) :
    (checkTimecode code expected t).flag = none ∨ (checkTimecode code expected t).flag = some .tcJump
      ∨ (checkTimecode code expected t).flag = some .tcSubstituted
      ∨ (checkTimecode code expected t).flag = some .tcInvalid := by
  unfold checkTimecode
  repeat' split
  all_goals simp

theorem gapNoted_frame (gap : Nat) (x : Feed) :
    (x.gapNoted gap).frame = { x.frame with records := (x.gapNoted gap).frame.records } := by
  unfold Feed.gapNoted Feed.withOpen
  repeat' split
  all_goals rfl

/-- An OPEN header that finds a frame open, no retirement pending, is handed off as after the close. -/
theorem handOpen_closes (k : ParseContext → ParseContext) (q : List TapEntry) {s c : State}
    (closes : s.Closes f CloseCause.noClose.flag c) (stays : (s.feed f).frame.retirePending = false) (stamp : Time)
    (addr : Addr) (h : EssenceHeader) :
    handOpen f stamp addr h (s.reparsed f k q) = handOpen f stamp addr h (c.reparsed f k q) := by
  obtain ⟨framed, shut, -⟩ := closes_kept closes
  have retiring : (c.feed f).frame.retirePending = (s.feed f).frame.retirePending :=
    (congrArg FrameUnit.retirePending framed.frame :)
  have stays' : ((c.reparsed f k q).feed f).frame.retirePending = false := by rw [reparsed_feed]; exact retiring.trans stays
  have shut' : ((c.reparsed f k q).feed f).frame.openFrame = .none := by rw [reparsed_feed]; exact shut
  have stays'' : ((s.reparsed f k q).feed f).frame.retirePending = false := by rw [reparsed_feed]; exact stays
  have closed : closeFrame f .noClose (c.reparsed f k q) = c.reparsed f k q := by simp only [closeFrame, shut']
  rw [handOpen, handOpen, closeFrame_closes k q closes, stays, stays', stays'', closed]
  rfl

end

/-- Settles O33: the hand-off of an OPEN header. -/
theorem openHeader : Obligations.OpenHeader := by
  unfold Obligations.OpenHeader
  intro s e rest h queue length meets read kind f x d gap check reason y opened record
  have params : y.params = x.params := gapNoted_params gap x
  have running : y.parse.state ≠ .idle := by rw [gapNoted_parse]; exact meetsHeader_running meets
  have frame : y.frame = { x.frame with records := y.frame.records } := gapNoted_frame gap x
  have self : (s.setFeed f y).feed f = y := State.feed_setFeed_self ..
  have met := header_met queue length meets read
  have opens : x.frame.openFrame = .none → x.frame.retirePending = false → exec .parseTapEntry s = .next
      { s.setFeed f ((openFrame e.stamp e.addr h y).pastHeader e.addr h .skip) with tapQ := rest } := by
    intro shut stays
    rw [met, handOpen_entered rest kind (by rw [self, frame]; exact shut) (by rw [self, frame]; exact stays)
      (by rw [self]; exact running) (by rw [self]; exact params), self, State.setFeed_setFeed]
  have closing : ∀ c : State, (x.frame.openFrame = .untracked ∧ c = (s.setFeed f y).closedList f y.frame.records
        ∨ ∃ r, y.framing r ∧ c = State.closedNewest f 0x0002 r (s.setFeed f y)) →
      (s.setFeed f y).Closes f CloseCause.noClose.flag c := by
    intro c closes
    unfold State.Closes
    rw [self]
    exact closes.imp_left (And.imp_left fun untracked => by rw [frame]; exact untracked)
  have retiring : ((s.setFeed f y).feed f).frame.retirePending = x.frame.retirePending := by rw [self, frame]
  refine ⟨fun shut stays room => ?_, fun shut stays full => ?_, fun c stays closes => ?_, fun c retires closes => ?_⟩
  · obtain ⟨n, eq⟩ := gapNoted_untracked gap (x := x) (by rw [shut]; nofun)
    have decided : browseReason (openSerial check y) h.b h.c = reason := by
      rw [browseReason_eq, show y = _ from eq]
      rfl
    have appended : newRecord x.frame.nextSerial check e.stamp e.addr h reason
        (if reason = .none then some (nextSlot x) else none) x.frame.untrackedBefore = record := by
      unfold newRecord
      obtain flag | flag | flag | flag : check.flag = none ∨ check.flag = some .tcJump ∨ check.flag = some .tcSubstituted
          ∨ check.flag = some .tcInvalid := checkTimecode_flag ..
      all_goals
        simp only [record, flag]
        rfl
    rw [opens shut stays, openFrame_tracked _ _ _ (by rw [show y = _ from eq]; exact room)]
    have headed : openTracked y.frame.nextSerial (checkTimecode y.params.rateCode y.frame.expectedTimecode h.timecode)
        e.stamp e.addr h (openSerial (checkTimecode y.params.rateCode y.frame.expectedTimecode h.timecode) y)
        = openTracked x.frame.nextSerial check e.stamp e.addr h (openSerial check y) := by
      rw [params, frame]
    rw [headed, openTracked, decided, ← appended]
    simp only [opened, show y = _ from eq]
    rfl
  · obtain ⟨n, eq⟩ := gapNoted_untracked gap (x := x) (by rw [shut]; nofun)
    rw [opens shut stays, openFrame_untracked _ _ _ (by rw [show y = _ from eq]; exact full)]
    have headed : openSerial (checkTimecode y.params.rateCode y.frame.expectedTimecode h.timecode) y
        = openSerial check y := by
      rw [params, frame]
    rw [headed]
    simp only [opened, show y = _ from eq]
    rfl
  · have closes := closing c closes
    obtain ⟨framed, shut, tapQ⟩ := closes_kept closes
    rw [self] at framed
    let z : Feed := { c.feed f with parse := { (c.feed f).parse with expectedSeq := h.sequence } }
    let c' : State := c.setFeed f z
    have self' : c'.feed f = z := State.feed_setFeed_self ..
    have params' : z.params = x.params := (framed_params framed).trans params
    have parse' : (c.feed f).parse = x.parse := framed.parse.trans (gapNoted_parse ..)
    have meets' : z.meetsHeader e := by
      have same : z.parse = { x.parse with expectedSeq := h.sequence } := by rw [← parse']
      unfold Feed.meetsHeader
      rw [same]
      exact meets
    have gap' : z.gapAt h = 0 := by
      unfold Feed.gapAt
      split
      · exact congrArg BitVec.toNat (BitVec.sub_self h.sequence)
      · rfl
    have met' := header_met (s := c') (tapQ.trans queue) length (by rw [self']; exact meets')
      (by rw [self', params']; exact read)
    have headed : (c'.setFeed f ((c'.feed f).gapNoted ((c'.feed f).gapAt h))).reparsed f
        (headerParse (c'.feed f).params e.addr h) rest = c.reparsed f (headerParse x.params e.addr h) rest := by
      rw [self', gap', gapNoted_zero, params', State.reparsed, State.feed_setFeed_self, State.setFeed_setFeed,
        State.setFeed_setFeed]
      rfl
    have handed : handOff f e.stamp e.addr h ((s.setFeed f y).reparsed f (headerParse x.params e.addr h) rest)
        = handOff f e.stamp e.addr h (c.reparsed f (headerParse x.params e.addr h) rest) := by
      simp only [handOff, kind]
      rw [handOpen_closes _ _ closes (retiring.trans stays)]
    rw [met, met', headed, handed]
  · have closes := closing c closes
    obtain ⟨framed, -, -⟩ := closes_kept closes
    have handed : handOff f e.stamp e.addr h ((s.setFeed f y).reparsed f (headerParse x.params e.addr h) rest)
        = (stopParser f (c.reparsed f (headerParse x.params e.addr h) rest), .skip) := by
      have retires' : (((s.setFeed f y).reparsed f (headerParse x.params e.addr h) rest).feed f).frame.retirePending
          = true := by
        rw [reparsed_feed]
        exact retiring.trans retires
      simp only [handOff, kind, handOpen, retires', if_true, closeFrame_closes _ _ closes, retiring, retires]
    rw [met, handed, entered_idle (stopParser_idle _)]
    refine ⟨_, rfl, closed_stops c e.addr h ?_ .skip rest⟩
    rw [framed_params framed, self]
    exact params

end Sys2Proof.Machine
end

section
/-! The CLOSE header (chapters 1.5, 2.6, 2.7). -/

namespace Sys2Proof.Machine

theorem parseBlind_lengthened (n : Nat) : ParseBlind (Feed.lengthened n) := by
  intro x p
  unfold Feed.lengthened Feed.withOpen
  dsimp only
  split <;> rfl

theorem lengthened_frame (n : Nat) (x : Feed) :
    (x.lengthened n).frame = { x.frame with records := (x.lengthened n).frame.records } := by
  unfold Feed.lengthened Feed.withOpen
  split <;> rfl

theorem lengthened_params (n : Nat) (x : Feed) : (x.lengthened n).params = x.params := by
  rw [Feed.params, Feed.lengthened, withOpen_life]
  rfl

/-- The hand-off of a CLOSE header that finds a frame open. -/
theorem handClose_closes {f : FeedId} (k : ParseContext → ParseContext) (q : List TapEntry) {s c : State} {y : Feed}
    {len : Nat} (closes : (s.setFeed f (y.lengthened (32 + len))).Closes f CloseCause.close.flag c)
    (opened : y.frame.openFrame ≠ .none) :
    handClose f len ((s.setFeed f y).reparsed f k q) =
      (if y.frame.retirePending then stopParser f (c.reparsed f k q) else c.reparsed f k q, .skip) := by
  have shown : (((s.setFeed f y).reparsed f k q).feed f).frame = y.frame := by rw [reparsed_feed, State.feed_setFeed_self]
  have counted : ((s.setFeed f y).reparsed f k q).modFeed f (countLength (32 + len))
      = (s.setFeed f (y.lengthened (32 + len))).reparsed f k q := by
    rw [show countLength (32 + len) = Feed.lengthened (32 + len) from rfl,
      modFeed_reparsed k q (parseBlind_lengthened (32 + len)), State.setFeed_modFeed]
  rw [handClose, if_neg (by rw [shown]; exact opened), counted, closeFrame_closes k q closes, State.feed_setFeed_self,
    lengthened_frame]

/-- A list of one record, OPEN. -/
theorem withOpen_one (g : FrameRecord → FrameRecord) {x : Feed} {r : FrameRecord} (tracked : x.frame.openFrame = .tracked)
    (records : x.frame.records = [r]) (opened : r.state = .opened) :
    x.withOpen g = { x with frame := { x.frame with records := [g r] } } := by
  rw [Feed.withOpen, if_pos tracked, records, List.map_singleton, if_pos opened]

/-- The close of a feed's only record, without browse. -/
theorem closedNewest_only {f : FeedId} (flag : BitVec 16) {r : FrameRecord} (s : State) {x : Feed}
    (records : x.frame.records = [r])
    (slot : r.slot = none) : State.closedNewest f flag r (s.setFeed f x) =
      (stageIndex (indexRecord f x.params (r.closing flag x.frame.peaks)) s).setFeed f { x with
        frame := { x.frame with records := [], openFrame := .none },
        life := { x.life with counters := { x.life.counters with
          browseAbsent := min 4294967295 (x.life.counters.browseAbsent + 1) } } } := by
  have bands : (s.setFeed f x).closedBands f flag r
      = s.setFeed f { x with frame := { x.frame with records := [r.closing flag x.frame.peaks] } } := by
    unfold State.closedBands
    simp only [slot, if_true, State.feed_setFeed_self, State.setFeed_setFeed, records]
    rfl
  rw [closedNewest_eq (front := []) (q := r.closing flag x.frame.peaks) (by rw [bands, State.feed_setFeed_self]; rfl), bands,
    if_pos rfl, closedAlone_none (show (r.closing flag x.frame.peaks).slot = none from slot), State.closedList,
    State.feed_setFeed_self, State.feed_setFeed_self, State.setFeed_setFeed, State.setFeed_setFeed, stageIndex_setFeed]
  rfl

/-- Settles O36: the hand-off of a CLOSE header. -/
theorem closeHeader : Obligations.CloseHeader := by
  unfold Obligations.CloseHeader
  intro s e rest h queue length meets read kind f x y
  let noted : Feed := x.gapNoted (x.gapAt h)
  have params : y.params = x.params := (lengthened_params ..).trans (gapNoted_params ..)
  have parse : y.parse = x.parse := ((parseBlind_lengthened _).parse _).trans (gapNoted_parse ..)
  have running : y.parse.state ≠ .idle := by rw [parse]; exact meetsHeader_running meets
  have frame : y.frame = { x.frame with records := y.frame.records } := by
    have kept : noted.frame = { x.frame with records := noted.frame.records } := gapNoted_frame ..
    have long : y.frame = { noted.frame with records := y.frame.records } := lengthened_frame ..
    rw [long, kept]
  have self : (s.setFeed f y).feed f = y := State.feed_setFeed_self ..
  have first : ∀ c : State, (x.frame.openFrame = .untracked ∧ c = (s.setFeed f y).closedList f y.frame.records
        ∨ ∃ r, y.framing r ∧ c = State.closedNewest f 0 r (s.setFeed f y)) →
      let past : State := { c.setFeed f ((c.feed f).pastHeader e.addr h .skip) with tapQ := rest }
      (x.frame.retirePending = false → exec .parseTapEntry s = .next past)
        ∧ (x.frame.retirePending = true → ∃ t : State, exec .parseTapEntry s = .next t ∧ State.stops f past t) := by
    intro c shuts past
    have closes : (s.setFeed f y).Closes f CloseCause.close.flag c := by
      unfold State.Closes
      rw [self]
      exact shuts.imp_left (And.imp_left fun untracked => by rw [frame]; exact untracked)
    have framed := (closes_kept closes).1
    rw [self] at framed
    have opened : noted.frame.openFrame ≠ .none := by
      have shown : noted.frame.openFrame = y.frame.openFrame := (withOpen_openFrame ..).symm
      rw [shown]
      obtain ⟨untracked, -⟩ | ⟨r, framing, -⟩ := shuts
      · rw [frame, show ({ x.frame with records := y.frame.records } : FrameUnit).openFrame = .untracked from untracked]
        nofun
      · rw [framing.1]
        nofun
    have retiring : noted.frame.retirePending = x.frame.retirePending := by
      rw [show noted.frame = { x.frame with records := noted.frame.records } from gapNoted_frame ..]
    have met := header_met queue length meets read
    simp only [handOff, kind] at met
    rw [met, handClose_closes _ rest closes opened, retiring]
    refine ⟨fun stays => ?_, fun retires => ?_⟩
    · rw [stays]
      exact congrArg Host.Outcome.next (closed_entered closes (by rw [self]; exact params)
        (by rw [self]; exact running) .skip rest)
    · rw [retires, if_pos rfl, entered_idle (stopParser_idle _)]
      exact ⟨_, rfl, closed_stops c e.addr h ((framed_params framed).trans params) .skip rest⟩
  refine ⟨first, ?_⟩
  intro r records opened slot tracked seq stays missing closed
  have none : x.gapAt h = 0 := by
    unfold Feed.gapAt
    split
    · rw [seq]
      exact congrArg BitVec.toNat (BitVec.sub_self _)
    · rfl
  have y_eq : y = x.lengthened (32 + h.len) := by
    show (x.gapNoted (x.gapAt h)).lengthened (32 + h.len) = _
    rw [none, gapNoted_zero]
  let longer : FrameRecord := { r with frameLength := min 4294967295 (r.frameLength + (32 + h.len)) }
  let only : Feed := { x with frame := { x.frame with records := [longer] } }
  have one : y = only := by
    rw [y_eq]
    exact withOpen_one _ tracked records opened
  have framing : y.framing longer := by
    rw [one]
    exact ⟨tracked, opened, [], rfl, nofun, nofun⟩
  have indexed : indexRecord f x.params (longer.closing 0 x.frame.peaks) = indexRecord f x.params closed := by
    have fixed : longer.closing 0 x.frame.peaks = { closed with state := r.state } := by
      have conditions : r.conditions ||| 0 ||| (if r.height ≤ r.linesReceived then 0 else 0x0800#16)
          = if missing = 0 then r.conditions else r.conditions ||| 0x0800#16 := by
        rw [show r.conditions ||| 0 = r.conditions from BitVec.or_zero]
        by_cases all : r.height ≤ r.linesReceived
        · rw [if_pos all, if_pos (Nat.sub_eq_zero_of_le all)]
          exact BitVec.or_zero
        · rw [if_neg all, if_neg (by omega)]
      exact congrArg (fun c => ({ closed with state := r.state, conditions := c } : FrameRecord)) conditions
    rw [fixed]
    rfl
  let staged : State := stageIndex (indexRecord f x.params closed) s
  let shut : Feed := { x with
    frame := { x.frame with records := [], openFrame := .none },
    life := { x.life with counters := { x.life.counters with
      browseAbsent := min 4294967295 (x.life.counters.browseAbsent + 1) } } }
  have closes : staged.setFeed f shut = State.closedNewest f 0 longer (s.setFeed f y) := by
    rw [one]
    have alone := closedNewest_only (f := f) 0 s (x := only) (r := longer) rfl slot
    exact (alone.trans (congrArg (fun i => (stageIndex i s).setFeed f shut) indexed)).symm
  refine ⟨_, (first _ (.inr ⟨longer, framing, closes⟩)).1 stays, rfl, ?_⟩
  have feed : State.feed { (staged.setFeed f shut).setFeed f (((staged.setFeed f shut).feed f).pastHeader e.addr h .skip) with
      tapQ := rest } f = shut.pastHeader e.addr h .skip := by
    rw [State.feed_setFeed_self]
    exact State.feed_setFeed_self ..
  rw [feed]
  refine ⟨rfl, rfl, rfl, rfl, rfl, rfl, rfl, rfl, fun g other => ?_, ?_⟩
  · refine (State.feed_setFeed_ne (staged.setFeed f shut) _ other).trans ((State.feed_setFeed_ne staged _ other).trans ?_)
    exact stageIndex_feed ..
  · exact stageIndex_notices ..

end Sys2Proof.Machine
end

section
/-! The loss timeout (chapters 1.6, 2.6, 6.4). -/

namespace Sys2Proof.Machine

section
variable {f : FeedId}

/-- Settling opens no record. -/
theorem settle_unopened (k : Nat) {s : State} (unopened : ∀ r ∈ (s.feed f).frame.records, r.state ≠ .opened) :
    ∀ r ∈ ((settle f k s).feed f).frame.records, r.state ≠ .opened := by
  induction k generalizing s with
  | zero => exact unopened
  | succ k ih =>
    rw [settle]
    split
    · exact unopened
    · rename_i p rest records
      have tail : ∀ r ∈ rest, r.state ≠ .opened := fun r hr => unopened r (by rw [records]; exact List.mem_cons_of_mem p hr)
      repeat' split
      · exact ih (by rw [finishHead_feed]; exact tail)
      · rw [sealHead_feed]
        intro r hr
        obtain rfl | hr := List.mem_cons.mp hr
        · nofun
        · exact tail r hr
      · exact unopened

/-- A close of a tracked frame leaves no record OPEN. -/
theorem closeTracked_unopened (cause : CloseCause) (s : State) :
    ∀ r ∈ ((closeTracked f cause s).feed f).frame.records, r.state ≠ .opened := by
  obtain ⟨marked, banded, -, -, shut⟩ := closeTracked_eq f cause s
  rw [shut, settleFeed]
  refine settle_unopened _ ?_
  rw [State.feed_modFeed_self]
  intro r hr
  obtain ⟨q, -, rfl⟩ := List.mem_map.mp hr
  split
  · nofun
  · assumption

/-- What the loss close of a feed keeps of it, and leaves. -/
theorem closeFrame_left (cause : CloseCause) (s : State) :
    ((closeFrame f cause s).feed f).life.presence = (s.feed f).life.presence
      ∧ ((s.feed f).frame.openFrame = .tracked → ∀ r ∈ ((closeFrame f cause s).feed f).frame.records, r.state ≠ .opened)
      ∧ ((s.feed f).frame.openFrame ≠ .none → (s.feed f).frame.retirePending = true →
          ((closeFrame f cause s).feed f).parse.state = .idle)
      ∧ ((s.feed f).frame.retirePending = false →
          ((closeFrame f cause s).feed f).parse.state = (s.feed f).parse.state) := by
  obtain ⟨framed, -⟩ := framed_closeTracked f cause s
  have presence : ((closeTracked f cause s).feed f).life.presence = (s.feed f).life.presence :=
    (congrArg Lifecycle.presence framed.life :)
  unfold closeFrame
  dsimp only
  cases opened : (s.feed f).frame.openFrame with
  | none => exact ⟨rfl, nofun, fun c => absurd rfl c, fun _ => rfl⟩
  | tracked =>
    dsimp only
    split
    · rename_i retires
      rw [stopParser_feed_self]
      exact ⟨by rw [idleFeed_life, presence], fun _ => by rw [idleFeed_frame]; exact closeTracked_unopened cause s,
        fun _ _ => by rw [idleFeed_parse], fun stays => by rw [stays] at retires; cases retires⟩
    · rename_i stays
      exact ⟨presence, fun _ => closeTracked_unopened cause s, fun _ retires => absurd retires stays,
        fun _ => congrArg ParseContext.state framed.parse⟩
  | untracked =>
    dsimp only
    split
    · rename_i retires
      rw [stopParser_feed_self, State.feed_modFeed_self]
      exact ⟨by rw [idleFeed_life], nofun, fun _ _ => by rw [idleFeed_parse],
        fun stays => by rw [stays] at retires; cases retires⟩
    · rename_i stays
      rw [State.feed_modFeed_self]
      exact ⟨rfl, nofun, fun _ retires => absurd retires stays, fun _ => rfl⟩

theorem reparsed_self (s : State) : s.reparsed f id s.tapQ = s := State.setFeed_self s f

/-- The close of the open frame on its own. -/
theorem closeFrame_eq {cause : CloseCause} {s c : State} (closes : s.Closes f cause.flag c) : closeFrame f cause s =
    if (s.feed f).frame.retirePending then stopParser f c else c := by
  have closed := closeFrame_closes id s.tapQ closes
  have same : c.reparsed f id s.tapQ = c := by
    rw [← (closes_kept closes).2.2]
    exact reparsed_self c
  rwa [reparsed_self, same] at closed

/-- The expiry test (R116). -/
theorem lossExpired_iff (s : State) : lossExpired f s = true ↔ (s.feed f).life.presence = .present
    ∧ (s.feed f).parse.state ≠ .idle ∧ (s.feed f).params.lossTimeout ≠ 0
    ∧ (s.feed f).params.lossTimeout * 1000 ≤ s.timeBase.toNat - (s.feed f).life.lastArrival.toNat := by
  simp only [lossExpired, Feed.running, Bool.and_eq_true, decide_eq_true_eq, and_assoc]

/-- The newest record's close behind another record, of a frame without browse. -/
theorem closedNewest_behind (flag : BitVec 16) {r : FrameRecord} (s : State) {x : Feed} {front : List FrameRecord}
    (records : x.frame.records = front ++ [r]) (behind : front ≠ []) (slot : r.slot = none) :
    ((State.closedNewest f flag r (s.setFeed f x)).feed f).frame.records
      = front ++ [{ r.closing flag x.frame.peaks with state := .closed }] := by
  have bands : ((s.setFeed f x).closedBands f flag r).feed f
      = { x with frame := { x.frame with records := front ++ [r.closing flag x.frame.peaks] } } := by
    unfold State.closedBands
    simp only [slot, if_true, State.feed_setFeed_self, records, List.dropLast_concat]
  rw [closedNewest_eq (front := front) (q := r.closing flag x.frame.peaks) (by rw [bands]), if_neg behind, State.closedList,
    State.feed_setFeed_self]

end

/-- Settles O37: the loss timeout. -/
theorem Settled.lossTimeout : Obligations.LossTimeout := by
  unfold Obligations.LossTimeout
  intro f s x expired absent turned told after
  have fires : expired → exec (.lossTimeoutExpiry f) s = .next (told (lostSerial x) (lossClose f (s.setFeed f absent))) :=
    fun due => congrArg Host.Outcome.next (if_pos ((lossExpired_iff s).mpr due))
  have turns : skipPayload absent = turned := by
    have dropped := discardLine_eq absent
    unfold skipPayload
    rw [dropped]
    simp only [absent, turned]
    rcases x.parse with ⟨state, cursor, residue, _ | ⟨k, d⟩, seq, budget⟩
    · rfl
    · cases d <;> rfl
  have shuts : x.frame.openFrame ≠ .none →
      lossClose f (s.setFeed f absent) = closeFrame f .lost (s.setFeed f turned) := by
    intro opened
    rw [lossClose, State.feed_setFeed_self, if_neg opened, State.setFeed_modFeed, turns]
  have self : (s.setFeed f turned).feed f = turned := State.feed_setFeed_self ..
  have named : x.frame.openFrame ≠ .none → lostSerial x = some (x.frame.nextSerial - 1) := by
    intro opened
    unfold lostSerial
    cases state : x.frame.openFrame with
    | none => exact absurd state opened
    | _ => rfl
  have lost : ∀ c, expired → x.frame.openFrame ≠ .none → (s.setFeed f turned).Closes f CloseCause.lost.flag c →
      after c (some (x.frame.nextSerial - 1)) := by
    intro c due opened closes
    have closed := closeFrame_eq closes
    rw [self] at closed
    have run := fires due
    rw [named opened, shuts opened, closed] at run
    refine ⟨fun stays => ?_, fun retires => ⟨stopParser f c, ?_, ?_⟩⟩
    · rwa [if_neg (by rw [show turned.frame.retirePending = false from stays]; nofun)] at run
    · exact stopParser_stops (State.setFeed_self ..).symm rfl rfl
    · rwa [if_pos retires] at run
  refine ⟨fun early => ?_, fun due shut => ?_, fun due opened => ?_, fun due untracked => ?_, fun r due framing => ?_,
    fun r c due framing slot others closed => ?_⟩
  · exact congrArg Host.Outcome.next (if_neg fun due => early ((lossExpired_iff s).mp due))
  · have none : lostSerial x = none := by simp only [lostSerial, shut]
    rw [fires due, none, lossClose, State.feed_setFeed_self, if_pos shut]
  · obtain ⟨presence, unopened, retires, stays⟩ := closeFrame_left (f := f) .lost (s.setFeed f turned)
    have feed : (told (lostSerial x) (lossClose f (s.setFeed f absent))).feed f
        = (closeFrame f .lost (s.setFeed f turned)).feed f := by
      rw [← shuts opened]
      exact stageEvent_feed ..
    rw [self] at presence unopened retires stays
    refine ⟨_, fires due, ?_⟩
    rw [feed]
    exact ⟨presence, closeFrame_openFrame .., unopened, retires opened, stays, (local_expireLoss f s).others⟩
  · refine lost _ due (by rw [untracked]; nofun) (.inl ?_)
    rw [self]
    exact ⟨untracked, rfl⟩
  · refine lost _ due (by rw [framing.1]; nofun) (.inr ⟨r, ?_, rfl⟩)
    rw [self]
    exact framing
  · obtain ⟨-, -, front, records, -⟩ := framing
    have behind : front ≠ [] := by
      rintro rfl
      exact others records
    rw [closed, closedNewest_behind 0x0004 s (x := turned) records behind slot]
    refine ⟨_, List.mem_append_right _ (List.mem_singleton.mpr rfl), rfl, rfl, rfl, ?_⟩
    simp [hasCondition, Condition.bit, FrameRecord.closing]

end Sys2Proof.Machine
end

section
/-! Timecode (chapter 2.3): validity, the check and the advance by one frame. -/

namespace Sys2Proof.Machine

/-- The four fields of a timecode as numbers. -/
def Timecode.Reads (t : Timecode) (hours minutes seconds frames : Nat) : Prop :=
  t.hours.toNat = hours ∧ t.minutes.toNat = minutes ∧ t.seconds.toNat = seconds ∧ t.frames.toNat = frames

theorem timecodeValid_iff (code : Nat) (t : Timecode) : timecodeValid code t = true ↔
    t.hours.toNat ≤ 23 ∧ t.minutes.toNat ≤ 59 ∧ t.seconds.toNat ≤ 59 ∧ t.frames.toNat < rateOf code
      ∧ ¬ (code = 3 ∧ t.seconds.toNat = 0 ∧ t.frames.toNat ≤ 1 ∧ t.minutes.toNat % 10 ≠ 0) := by
  have zero : t.seconds = 0 ↔ t.seconds.toNat = 0 := BitVec.toNat_inj.symm
  simp only [timecodeValid, dropFrame, Bool.and_eq_true, Bool.not_eq_true', ← Bool.not_eq_true, decide_eq_true_eq, zero,
    and_assoc]

/-- The rates: thirty frames where drop-frame is counted, else one of five. -/
theorem rateOf_cases {code : Nat} (known : code ≤ 5) : (code = 3 ∧ rateOf code = 30) ∨ (code ≠ 3 ∧
    (rateOf code = 24 ∨ rateOf code = 25 ∨ rateOf code = 30 ∨ rateOf code = 50 ∨ rateOf code = 60)) := by
  interval_cases code <;> decide

/-- The bytes of a timecode whose fields are in their ranges. -/
theorem reads_ofNat {ho mi se fr : Nat} (h : ho < 256) (m : mi < 256) (s : se < 256) (f : fr < 256) :
    Timecode.Reads ⟨BitVec.ofNat 8 fr, BitVec.ofNat 8 se, BitVec.ofNat 8 mi, BitVec.ofNat 8 ho⟩ ho mi se fr :=
  ⟨(BitVec.toNat_ofNat ..).trans (Nat.mod_eq_of_lt h), (BitVec.toNat_ofNat ..).trans (Nat.mod_eq_of_lt m),
    (BitVec.toNat_ofNat ..).trans (Nat.mod_eq_of_lt s), (BitVec.toNat_ofNat ..).trans (Nat.mod_eq_of_lt f)⟩

/-! ### The advance, by the fields that wrap -/

section
variable {code ho mi se fr : Nat} {t : Timecode}

/-- The next frame of the second. -/
theorem advance_frame (reads : t.Reads ho mi se fr) (hours : ho ≤ 23) (minutes : mi ≤ 59) (seconds : se ≤ 59)
    (small : rateOf code ≤ 60) (within : fr + 1 < rateOf code) : (advanceTimecode code t).Reads ho mi se (fr + 1) := by
  obtain ⟨rfl, rfl, rfl, rfl⟩ := reads
  have advanced : advanceTimecode code t = ⟨.ofNat 8 (t.frames.toNat + 1), .ofNat 8 t.seconds.toNat, .ofNat 8 t.minutes.toNat,
      .ofNat 8 t.hours.toNat⟩ := by
    simp [advanceTimecode, show t.frames.toNat + 1 ≠ rateOf code by omega, show t.seconds.toNat ≠ 60 by omega,
      show t.minutes.toNat ≠ 60 by omega, show t.hours.toNat ≠ 24 by omega]
  rw [advanced]
  exact reads_ofNat (by omega) (by omega) (by omega) (by omega)

/-- The first frame of the next second. -/
theorem advance_second (reads : t.Reads ho mi se fr) (hours : ho ≤ 23) (minutes : mi ≤ 59) (seconds : se + 1 ≤ 59)
    (last : fr + 1 = rateOf code) : (advanceTimecode code t).Reads ho mi (se + 1) 0 := by
  obtain ⟨rfl, rfl, rfl, rfl⟩ := reads
  have advanced : advanceTimecode code t = ⟨.ofNat 8 0, .ofNat 8 (t.seconds.toNat + 1), .ofNat 8 t.minutes.toNat,
      .ofNat 8 t.hours.toNat⟩ := by
    simp [advanceTimecode, last, show t.seconds.toNat + 1 ≠ 60 by omega, show t.minutes.toNat ≠ 60 by omega,
      show t.hours.toNat ≠ 24 by omega]
  rw [advanced]
  exact reads_ofNat (by omega) (by omega) (by omega) (by omega)

/-- The first frame number of the next minute: drop-frame skips two but for each tenth minute. -/
theorem advance_minute (reads : t.Reads ho mi se fr) (hours : ho ≤ 23) (minutes : mi + 1 ≤ 59) (seconds : se = 59)
    (last : fr + 1 = rateOf code) :
    (advanceTimecode code t).Reads ho (mi + 1) 0 (if code = 3 ∧ (mi + 1) % 10 ≠ 0 then 2 else 0) := by
  obtain ⟨rfl, rfl, rfl, rfl⟩ := reads
  have advanced : advanceTimecode code t = ⟨.ofNat 8 (if code = 3 ∧ (t.minutes.toNat + 1) % 10 ≠ 0 then 2 else 0), .ofNat 8 0,
      .ofNat 8 (t.minutes.toNat + 1), .ofNat 8 t.hours.toNat⟩ := by
    simp [advanceTimecode, dropFrame, last, seconds, show t.minutes.toNat + 1 ≠ 60 by omega, show t.hours.toNat ≠ 24 by omega]
  rw [advanced]
  exact reads_ofNat (by omega) (by omega) (by omega) (by split <;> omega)

/-- The first frame of the next hour. -/
theorem advance_hour (reads : t.Reads ho mi se fr) (hours : ho + 1 ≤ 23) (minutes : mi = 59) (seconds : se = 59)
    (last : fr + 1 = rateOf code) : (advanceTimecode code t).Reads (ho + 1) 0 0 0 := by
  obtain ⟨rfl, rfl, rfl, rfl⟩ := reads
  have advanced : advanceTimecode code t = ⟨.ofNat 8 0, .ofNat 8 0, .ofNat 8 0, .ofNat 8 (t.hours.toNat + 1)⟩ := by
    simp [advanceTimecode, last, seconds, minutes, show t.hours.toNat + 1 ≠ 24 by omega]
  rw [advanced]
  exact reads_ofNat (by omega) (by omega) (by omega) (by omega)

/-- The first frame of the next day. -/
theorem advance_day (reads : t.Reads ho mi se fr) (hours : ho = 23) (minutes : mi = 59) (seconds : se = 59)
    (last : fr + 1 = rateOf code) : (advanceTimecode code t).Reads 0 0 0 0 := by
  obtain ⟨rfl, rfl, rfl, rfl⟩ := reads
  have advanced : advanceTimecode code t = ⟨.ofNat 8 0, .ofNat 8 0, .ofNat 8 0, .ofNat 8 0⟩ := by
    simp [advanceTimecode, last, seconds, minutes, hours]
  rw [advanced]
  exact reads_ofNat (by omega) (by omega) (by omega) (by omega)

end

/-! ### The place of a timecode in the day -/

/-- The number of a timecode's frame in the day, no number skipped. -/
def Timecode.place (rate : Nat) (t : Timecode) : Nat :=
  ((t.hours.toNat * 60 + t.minutes.toNat) * 60 + t.seconds.toNat) * rate + t.frames.toNat

/-- The frame number after another of the day, two further where drop-frame skips them. -/
def placeAfter (code place : Nat) : Nat :=
  let after := (place + 1) % (86400 * rateOf code)
  if code = 3 ∧ after % 1800 = 0 ∧ after / 1800 % 10 ≠ 0 then after + 2 else after

/-- What the advance makes of the four fields. -/
def Advances (code ho mi se fr ho' mi' se' fr' : Nat) : Prop :=
  (fr + 1 < rateOf code ∧ ho' = ho ∧ mi' = mi ∧ se' = se ∧ fr' = fr + 1)
    ∨ (fr + 1 = rateOf code ∧ se + 1 ≤ 59 ∧ ho' = ho ∧ mi' = mi ∧ se' = se + 1 ∧ fr' = 0)
    ∨ (fr + 1 = rateOf code ∧ se = 59 ∧ mi + 1 ≤ 59 ∧ ho' = ho ∧ mi' = mi + 1 ∧ se' = 0
        ∧ fr' = if code = 3 ∧ (mi + 1) % 10 ≠ 0 then 2 else 0)
    ∨ (fr + 1 = rateOf code ∧ se = 59 ∧ mi = 59 ∧ ho + 1 ≤ 23 ∧ ho' = ho + 1 ∧ mi' = 0 ∧ se' = 0 ∧ fr' = 0)
    ∨ (fr + 1 = rateOf code ∧ se = 59 ∧ mi = 59 ∧ ho = 23 ∧ ho' = 0 ∧ mi' = 0 ∧ se' = 0 ∧ fr' = 0)

theorem advance_advances {code ho mi se fr : Nat} {t : Timecode} (reads : t.Reads ho mi se fr) (small : rateOf code ≤ 60)
    (hours : ho ≤ 23) (minutes : mi ≤ 59) (seconds : se ≤ 59) (frames : fr < rateOf code) :
    ∃ ho' mi' se' fr', (advanceTimecode code t).Reads ho' mi' se' fr' ∧ Advances code ho mi se fr ho' mi' se' fr' := by
  unfold Advances
  obtain within | last : fr + 1 < rateOf code ∨ fr + 1 = rateOf code := by omega
  · exact ⟨_, _, _, _, advance_frame reads hours minutes seconds small within, .inl ⟨within, rfl, rfl, rfl, rfl⟩⟩
  obtain second | second : se + 1 ≤ 59 ∨ se = 59 := by omega
  · exact ⟨_, _, _, _, advance_second reads hours minutes second last, .inr (.inl ⟨last, second, rfl, rfl, rfl, rfl⟩)⟩
  obtain minute | minute : mi + 1 ≤ 59 ∨ mi = 59 := by omega
  · exact ⟨_, _, _, _, advance_minute reads hours minute second last,
      .inr (.inr (.inl ⟨last, second, minute, rfl, rfl, rfl, rfl⟩))⟩
  obtain hour | hour : ho + 1 ≤ 23 ∨ ho = 23 := by omega
  · exact ⟨_, _, _, _, advance_hour reads hour minute second last,
      .inr (.inr (.inr (.inl ⟨last, second, minute, hour, rfl, rfl, rfl, rfl⟩)))⟩
  · exact ⟨_, _, _, _, advance_day reads hour minute second last,
      .inr (.inr (.inr (.inr ⟨last, second, minute, hour, rfl, rfl, rfl, rfl⟩)))⟩

/-- A valid timecode advanced is valid, and the next of the day (R34). -/
theorem advance_next {code : Nat} {t : Timecode} (known : code ≤ 5) (valid : timecodeValid code t = true) :
    timecodeValid code (advanceTimecode code t) = true
      ∧ (advanceTimecode code t).place (rateOf code) = placeAfter code (t.place (rateOf code)) := by
  obtain ⟨hours, minutes, seconds, frames, numbered⟩ := (timecodeValid_iff code t).mp valid
  have rate := rateOf_cases known
  obtain ⟨ho', mi', se', fr', reads, advances⟩ := advance_advances (code := code) (t := t) ⟨rfl, rfl, rfl, rfl⟩ (by omega)
    hours minutes seconds frames
  obtain ⟨hHo, hMi, hSe, hFr⟩ := reads
  rw [timecodeValid_iff, Timecode.place, Timecode.place, placeAfter, hHo, hMi, hSe, hFr]
  unfold Advances at advances
  generalize t.hours.toNat = ho, t.minutes.toNat = mi, t.seconds.toNat = se, t.frames.toNat = fr, rateOf code = r at *
  obtain ⟨rfl, rfl⟩ | ⟨other, rate⟩ := rate
  · simp only [true_and]
    rcases advances with ⟨last, rfl, rfl, rfl, rfl⟩ | ⟨last, second, rfl, rfl, rfl, rfl⟩
        | ⟨last, second, minute, rfl, rfl, rfl, rfl⟩
        | ⟨last, second, minute, hour, rfl, rfl, rfl, rfl⟩ | ⟨last, second, minute, hour, rfl, rfl, rfl, rfl⟩
    · rw [if_neg (by omega)]
      omega
    · rw [if_neg (by omega)]
      omega
    · simp only [true_and]
      by_cases tenth : (mi + 1) % 10 = 0
      · rw [if_neg (not_not.mpr tenth), if_neg (by omega)]
        omega
      · rw [if_pos tenth, if_pos (by omega)]
        omega
    · rw [if_neg (by omega)]
      omega
    · rw [if_neg (by omega)]
      omega
  · rw [if_neg fun c => other c.1]
    simp only [other, false_and, if_false] at advances
    obtain rfl | rfl | rfl | rfl | rfl := rate <;> omega

/-- Settles O34: the rates, validity, the check and the advance. -/
theorem timecodesChecked : Obligations.TimecodesChecked := by
  unfold Obligations.TimecodesChecked
  refine ⟨rfl, fun code t _ => timecodeValid_iff code t, fun code e incoming => ⟨fun valid => ?_, fun invalid => ?_⟩,
    fun code t known valid => advance_next known valid⟩
  · exact ⟨by simp only [checkTimecode, valid, if_true],
      fun other => by simp only [checkTimecode, valid, other, if_true, if_false],
      by simp only [checkTimecode, valid, if_true]⟩
  · exact ⟨by simp only [checkTimecode, invalid, Bool.false_eq_true, if_false],
      by simp only [checkTimecode, invalid, Bool.false_eq_true, if_false]⟩

end Sys2Proof.Machine
end

section
/-! The LINES, AUDIO and FILL headers, and stray packets (chapters 1.5, 2.2, 2.4, 2.5). -/

namespace Sys2Proof.Machine

/-! ### The two tests of the frame unit -/

/-- A record with flags set by a mask. -/
def FrameRecord.masked (mask : BitVec 16) (r : FrameRecord) : FrameRecord := { r with conditions := r.conditions ||| mask }

theorem masked_zero (r : FrameRecord) : r.masked 0 = r :=
  congrArg (fun c => ({ r with conditions := c } : FrameRecord)) BitVec.or_zero

/-- What the LINES test gives: the disposition and the flags (R37). -/
def linesOutcome (h : EssenceHeader) (r : FrameRecord) : Disposition × BitVec 16 :=
  if ¬ (1 ≤ h.b ∧ h.b ≤ 16 ∧ 1 ≤ r.width ∧ h.len = (4 * r.width * h.b + 31) / 32 * 32) then (.skip, 0x0040)
  else if (r.lastLine.any fun last => decide (h.a ≤ last)) = true then (.skip, 0x0010)
  else (.lines h.a h.b 0, if r.height ≤ h.a + h.b - 1 then 0x0020 else 0)

/-- What the AUDIO test gives: the disposition and the flags (R39). -/
def audioOutcome (h : EssenceHeader) : Disposition × BitVec 16 :=
  if 1 ≤ h.a ∧ h.a ≤ 8 ∧ 1 ≤ h.b ∧ h.b ≤ 8192 ∧ h.len = (4 * h.a * h.b + 31) / 32 * 32 then (.audio h.a (h.a * h.b) 0, 0)
  else (.skip, 0x0400)

theorem linesTest_eq (h : EssenceHeader) (r : FrameRecord) :
    linesTest h r = ((linesOutcome h r).1, r.masked (linesOutcome h r).2) := by
  have formed : (!linesWellFormed r.width h) = true
      ↔ ¬ (1 ≤ h.b ∧ h.b ≤ 16 ∧ 1 ≤ r.width ∧ h.len = (4 * r.width * h.b + 31) / 32 * 32) := by
    simp only [linesWellFormed, roundUp32, Bool.not_eq_true', ← Bool.not_eq_true, Bool.and_eq_true, decide_eq_true_eq,
      and_assoc]
  unfold linesTest linesOutcome
  by_cases malformed : (!linesWellFormed r.width h) = true
  · rw [if_pos malformed, if_pos (formed.mp malformed)]
    rfl
  rw [if_neg malformed, if_neg (mt formed.mpr malformed)]
  have late : ∀ b : Bool, (if b = true then (Disposition.skip, r.flag .disorder)
      else (Disposition.lines h.a h.b 0, r.flagIf (decide (r.height ≤ h.a + h.b - 1)) .range))
        = ((if b = true then (Disposition.skip, (0x0010 : BitVec 16))
            else (.lines h.a h.b 0, if r.height ≤ h.a + h.b - 1 then 0x0020 else 0)).1,
          r.masked (if b = true then (Disposition.skip, (0x0010 : BitVec 16))
            else (.lines h.a h.b 0, if r.height ≤ h.a + h.b - 1 then 0x0020 else 0)).2) := by
    rintro (_ | _)
    · by_cases beyond : r.height ≤ h.a + h.b - 1
      · simp only [Bool.false_eq_true, if_false, beyond, if_true, FrameRecord.flagIf, decide_true]
        rfl
      · simp only [Bool.false_eq_true, if_false, beyond, FrameRecord.flagIf, decide_false, masked_zero]
    · rfl
  cases r.lastLine with
  | none => exact late false
  | some last => exact late (decide (h.a ≤ last))

theorem audioTest_eq (h : EssenceHeader) (r : FrameRecord) :
    audioTest h r = ((audioOutcome h).1, r.masked (audioOutcome h).2) := by
  have formed : audioWellFormed h = true
      ↔ 1 ≤ h.a ∧ h.a ≤ 8 ∧ 1 ≤ h.b ∧ h.b ≤ 8192 ∧ h.len = (4 * h.a * h.b + 31) / 32 * 32 := by
    simp only [audioWellFormed, roundUp32, Bool.and_eq_true, decide_eq_true_eq, and_assoc]
  unfold audioTest audioOutcome
  by_cases whole : audioWellFormed h = true
  · rw [if_pos whole, if_pos (formed.mp whole), masked_zero]
  · rw [if_neg whole, if_neg (mt formed.mpr whole)]
    rfl

/-! ### The hand-off of a payload -/

/-- The frame unit's test of a packet in a tracked frame whose record is the newest. -/
theorem handPayload_newest (test : FrameRecord → Disposition × FrameRecord) {x : Feed} {front : List FrameRecord}
    {r : FrameRecord} (tracked : x.frame.openFrame = .tracked) (newest : Newest front r x.frame.records) :
    handPayload test x = ({ x with frame := { x.frame with records := front ++ [(test r).2] } }, (test r).1) := by
  unfold handPayload
  simp only [tracked, newest.openRecord, Feed.onOpen]
  rw [newest.map fun q => (test q).2]

/-- A feed whose newest record grows. -/
theorem lengthened_newest (n : Nat) {x : Feed} {front : List FrameRecord} {r : FrameRecord}
    (tracked : x.frame.openFrame = .tracked) (newest : Newest front r x.frame.records) : x.lengthened n =
      { x with frame := { x.frame with
        records := front ++ [{ r with frameLength := min 4294967295 (r.frameLength + n) }] } } := by
  rw [Feed.lengthened, Feed.withOpen, if_pos tracked, newest.map]

theorem lengthened_untracked (n : Nat) {x : Feed} (untracked : x.frame.openFrame ≠ .tracked) : x.lengthened n = x :=
  if_neg untracked

theorem handPayload_parse (test : FrameRecord → Disposition × FrameRecord) (x : Feed) (p : ParseContext) :
    handPayload test { x with parse := p } = ({ (handPayload test x).1 with parse := p }, (handPayload test x).2) := by
  have same : ({ x with parse := p } : Feed).openRecord = x.openRecord := rfl
  cases opened : x.frame.openFrame with
  | none => simp only [handPayload, opened]; rfl
  | untracked => simp only [handPayload, opened]
  | tracked =>
    cases record : x.openRecord with
    | none => simp only [handPayload, opened, same, record]
    | some r => simp only [handPayload, opened, same, record]; rfl

/-- The frame unit's test of a LINES or AUDIO header. -/
def payloadTest (h : EssenceHeader) : FrameRecord → Disposition × FrameRecord :=
  if h.kind = .lines then linesTest h else audioTest h

/-- What the test of a LINES or AUDIO header gives. -/
def payloadOutcome (h : EssenceHeader) (r : FrameRecord) : Disposition × BitVec 16 :=
  if h.kind = .lines then linesOutcome h r else audioOutcome h

theorem payloadTest_eq (h : EssenceHeader) (r : FrameRecord) :
    payloadTest h r = ((payloadOutcome h r).1, r.masked (payloadOutcome h r).2) := by
  unfold payloadTest payloadOutcome
  split
  · exact linesTest_eq h r
  · exact audioTest_eq h r

/-- A LINES or AUDIO header is handed to its test, whatever the parse context and the tap queue hold. -/
theorem handOff_payload {f : FeedId} (stamp : Time) (addr : Addr) {h : EssenceHeader} (k : ParseContext → ParseContext)
    (q : List TapEntry) (s : State) (y : Feed) (kind : h.kind = .lines ∨ h.kind = .audio) :
    handOff f stamp addr h ((s.setFeed f y).reparsed f k q)
      = ((s.setFeed f (handPayload (payloadTest h) (y.lengthened 32)).1).reparsed f k q,
        (handPayload (payloadTest h) (y.lengthened 32)).2) := by
  let u : State := (s.setFeed f y).reparsed f k q
  have handed : handOff f stamp addr h u = (u.setFeed f (handPayload (payloadTest h) ((u.feed f).lengthened 32)).1,
      (handPayload (payloadTest h) ((u.feed f).lengthened 32)).2) := by
    unfold payloadTest
    obtain kind | kind := kind
    · rw [if_pos kind]
      simp only [handOff, kind]
      rfl
    · rw [if_neg (by rw [kind]; nofun)]
      simp only [handOff, kind]
      rfl
  have parse : (handPayload (payloadTest h) (y.lengthened 32)).1.parse = y.parse :=
    (handPayload_steady ..).2.trans ((parseBlind_lengthened 32).parse y)
  rw [handed, reparsed_feed, State.feed_setFeed_self, parseBlind_lengthened 32 y, handPayload_parse]
  refine Prod.ext ?_ rfl
  rw [State.reparsed, State.feed_setFeed_self, State.setFeed_setFeed, parse]
  show { State.setFeed ((s.setFeed f y).setFeed f _) f _ with tapQ := q } = _
  rw [State.setFeed_setFeed, State.setFeed_setFeed]

/-- A header whose hand-off changes its feed alone: the payload is entered behind the change. -/
theorem header_entered {s : State} {e : TapEntry} {rest : List TapEntry} {h : EssenceHeader} (queue : s.tapQ = e :: rest)
    (length : e.data.length = 32) (meets : (s.feed e.feed).meetsHeader e)
    (read : readHeader (s.feed e.feed).params.tag e.data = some h) {z : Feed} {d : Disposition}
    (params : z.params = (s.feed e.feed).params) (parse : z.parse = (s.feed e.feed).parse)
    (handed : handOff e.feed e.stamp e.addr h ((s.setFeed e.feed ((s.feed e.feed).gapNoted ((s.feed e.feed).gapAt h))).reparsed
        e.feed (headerParse (s.feed e.feed).params e.addr h) rest)
      = ((s.setFeed e.feed z).reparsed e.feed (headerParse (s.feed e.feed).params e.addr h) rest, d)) :
    exec .parseTapEntry s = .next { s.setFeed e.feed (z.pastHeader e.addr h d) with tapQ := rest } := by
  rw [header_met queue length meets read, handed]
  exact congrArg Host.Outcome.next (entered_reparsed (meetsHeader_running meets) params parse rfl)

section
variable {s : State} {e : TapEntry} {rest : List TapEntry} {h : EssenceHeader} {y : Feed}

/-- A LINES or AUDIO header, at a lock or at the cursor. -/
theorem header_payload (queue : s.tapQ = e :: rest) (length : e.data.length = 32) (meets : (s.feed e.feed).meetsHeader e)
    (read : readHeader (s.feed e.feed).params.tag e.data = some h) (kind : h.kind = .lines ∨ h.kind = .audio)
    (noted : y = (s.feed e.feed).gapNoted ((s.feed e.feed).gapAt h)) : exec .parseTapEntry s = .next
      { s.setFeed e.feed ((handPayload (payloadTest h) (y.lengthened 32)).1.pastHeader e.addr h
        (handPayload (payloadTest h) (y.lengthened 32)).2) with tapQ := rest } := by
  have params : ∀ x : Feed, (handPayload (payloadTest h) x).1.params = x.params := fun x => by
    unfold handPayload
    repeat' split
    all_goals rfl
  refine header_entered queue length meets read ?_ ?_ (noted ▸ handOff_payload e.stamp e.addr _ rest s y kind)
  · rw [params, lengthened_params, noted, gapNoted_params]
  · rw [(handPayload_steady ..).2, (parseBlind_lengthened 32).parse, noted, gapNoted_parse]

/-- A header whose hand-off is a change of its feed that reads and writes no parse context. -/
theorem header_blind (queue : s.tapQ = e :: rest) (length : e.data.length = 32) (meets : (s.feed e.feed).meetsHeader e)
    (read : readHeader (s.feed e.feed).params.tag e.data = some h) {d : Disposition} {g : Feed → Feed} (blind : ParseBlind g)
    (params : ∀ x, (g x).params = x.params)
    (handed : ∀ u : State, (u.feed e.feed).frame.openFrame = (s.feed e.feed).frame.openFrame →
      handOff e.feed e.stamp e.addr h u = (u.modFeed e.feed g, d))
    (noted : y = (s.feed e.feed).gapNoted ((s.feed e.feed).gapAt h)) : exec .parseTapEntry s = .next
      { s.setFeed e.feed ((g y).pastHeader e.addr h d) with tapQ := rest } := by
  refine header_entered queue length meets read ?_ ?_ ((handed _ ?_).trans (Prod.ext ?_ rfl))
  · rw [params, noted, gapNoted_params]
  · rw [blind.parse, noted, gapNoted_parse]
  · rw [reparsed_feed, State.feed_setFeed_self, gapNoted_frame]
  · rw [modFeed_reparsed _ _ blind, State.setFeed_modFeed, noted]

/-- A CLOSE header that finds no frame open is stray. -/
theorem handClose_stray {f : FeedId} (stamp : Time) (addr : Addr) {u : State} (kind : h.kind = .close)
    (shut : (u.feed f).frame.openFrame = .none) : handOff f stamp addr h u = (u.modFeed f countStray, .stray) := by
  simp only [handOff, kind, handClose, shut, if_true]

theorem handFill {f : FeedId} (stamp : Time) (addr : Addr) (u : State) (kind : h.kind = .fill) :
    handOff f stamp addr h u = (u.modFeed f (Feed.lengthened 32), .skip) := by
  simp only [handOff, kind]
  rfl

end

end Sys2Proof.Machine
end

section
/-! The payload walk (chapters 1.5, 1.6, 2.4, 2.5): picture words, audio words, and what a position moves. -/

namespace Sys2Proof.Machine

/-! ### Metering -/

theorem magnitude_signed24 (word : Nat) : magnitude (signed24 word) =
    if word % 16777216 < 8388608 then word % 16777216 else min (16777216 - word % 16777216) 8388607 := by
  have value : signed24 word = if 2 * (word % 16777216) < 16777216 then ((word % 16777216 : Nat) : Int)
      else ((word % 16777216 : Nat) : Int) - 16777216 := by
    rw [signed24, BitVec.toInt_eq_toNat_cond, BitVec.toNat_ofNat]
    rfl
  rw [magnitude, value]
  split <;> split <;> omega

theorem meter_get (peaks : Vector Nat 8) (channel : Nat) (x : Int) (k : Nat) (hk : k < 8) :
    (meter peaks channel x)[k] = if k = channel then max peaks[k] (magnitude x) else peaks[k] := by
  unfold meter
  rw [Vector.getElem_mapFinIdx]

/-! ### Words -/

/-- The 32-bit words of a record are its 4-byte fields at the offsets that are multiples of 4. -/
theorem words32_eq_map_fieldAt (bytes : List Byte) :
    words32 bytes = (List.range (bytes.length / 4)).map fun i => fieldAt bytes (4 * i) 4 := by
  induction bytes using words32.induct with
  | case1 a b c d rest ih =>
    have oneMore : (a :: b :: c :: d :: rest).length / 4 = rest.length / 4 + 1 := by
      simp only [List.length_cons]; omega
    have first : fieldAt (a :: b :: c :: d :: rest) 0 4 = leNat [a, b, c, d] := fieldAt_first [a, b, c, d] rest
    have next : ∀ i, fieldAt (a :: b :: c :: d :: rest) (4 * (i + 1)) 4 = fieldAt rest (4 * i) 4 := fun i =>
      fieldAt_skip (a := [a, b, c, d]) rest 4 (Nat.le_add_left 4 (4 * i))
    rw [words32, ih, oneMore, List.range_succ_eq_map, List.map_cons, List.map_map, Nat.mul_zero, first]
    exact congrArg _ (List.map_congr_left fun i _ => (next i).symm)
  | case2 bytes short =>
    match bytes, short with
    | [], _ => rfl
    | [_], _ => simp [words32]
    | [_, _], _ => simp [words32]
    | [_, _, _], _ => simp [words32]
    | a :: b :: c :: d :: rest, short => exact absurd rfl (short a b c d rest)

/-- The samples of the first `n` audio words of a position, metered while the packet has any left (R23, R39). -/
def metered (channels total pos : Nat) (word : Nat → Nat) (n : Nat) (peaks : Vector Nat 8) : Vector Nat 8 :=
  (List.range n).foldl (fun peaks i =>
    if pos + i < total then meter peaks ((pos + i) % channels) (signed24 (word i)) else peaks) peaks

theorem audioWords_metered {x : Feed} {k : PacketKind} {channels total pos : Nat}
    (packet : x.parse.packet = some ⟨k, .audio channels total pos⟩) (word : Nat → Nat) (n : Nat) :
    (List.range n).foldl (fun x i => audioWord x (word i)) x = { x with
      parse := { x.parse with packet := some ⟨k, .audio channels total (max pos (min total (pos + n)))⟩ },
      frame := { x.frame with peaks := metered channels total pos word n x.frame.peaks } } := by
  induction n with
  | zero =>
    have start : max pos (min total (pos + 0)) = pos := by omega
    rw [start, ← packet]
    rfl
  | succ n ih =>
    rw [metered, List.range_succ, List.foldl_append, List.foldl_append, ih]
    by_cases left : pos + n < total
    · have here : max pos (min total (pos + n)) = pos + n := by omega
      have next : max pos (min total (pos + (n + 1))) = pos + n + 1 := by omega
      rw [here, next]
      simp only [List.foldl_cons, List.foldl_nil, audioWord, left, if_true]
      rfl
    · have here : ¬ max pos (min total (pos + n)) < total := by omega
      have next : max pos (min total (pos + (n + 1))) = max pos (min total (pos + n)) := by omega
      rw [next]
      simp only [List.foldl_cons, List.foldl_nil, audioWord, here, left, if_false]
      rfl

/-! ### One position of a payload -/

theorem consumePayload_eq (addr : Addr) (x : Feed) : consumePayload addr x = x.pastPayload addr := by
  rw [consumePayload, ringNext_eq, Feed.pastPayload, countLength_eq, Feed.onParse]
  congr 2
  by_cases ends : x.parse.residue ≤ 32
  · have none : x.parse.residue - 32 = 0 := by omega
    rw [if_pos ends]
    simp only [none, if_true]
  · rw [if_neg ends, if_neg (show ¬ x.parse.residue - 32 = 0 by omega)]

/-- A position of a payload at the cursor. -/
theorem payload_met {s : State} {e : TapEntry} {rest : List TapEntry} (queue : s.tapQ = e :: rest)
    (length : e.data.length = 32) (state : (s.feed e.feed).parse.state = .inPayload) (cursor : e.addr = (s.feed e.feed).parse.cursor)
    (clean : e.afterMiss = false) : exec .parseTapEntry s
      = .next ((readPayload e.feed e.data { s with tapQ := rest }).modFeed e.feed (Feed.pastPayload e.addr)) := by
  have whole : isBreak e (s.feed e.feed).parse = false := by
    refine eq_false_of_ne_true fun c => ?_
    obtain ⟨-, moved | missed⟩ := (isBreak_iff ..).mp c
    · exact moved cursor
    · rw [clean] at missed
      cases missed
  have consumed : consumePayload e.addr = Feed.pastPayload e.addr := funext (consumePayload_eq e.addr)
  rw [parseTapEntry_one queue length whole]
  simp only [parsePosition, State.feed_tapQ, state, payloadPosition, consumed]

section
variable {f : FeedId} {s : State} {k : PacketKind}

theorem readPayload_skipped (bytes : List Byte) (skipped : (s.feed f).parse.packet = none
      ∨ ∃ k, (s.feed f).parse.packet = some ⟨k, .skip⟩ ∨ (s.feed f).parse.packet = some ⟨k, .stray⟩) :
    readPayload f bytes s = s := by
  obtain packet | ⟨k, packet | packet⟩ := skipped <;> simp only [readPayload, packet]

theorem readPayload_lines {bytes : List Byte} {line remaining pos : Nat} (length : bytes.length = 32)
    (packet : (s.feed f).parse.packet = some ⟨k, .lines line remaining pos⟩) :
    readPayload f bytes s = (List.range 16).foldl (fun u i => pictureWord f u (fieldAt bytes (2 * i) 2)) s := by
  simp only [readPayload, packet]
  rw [words16_eq_map_fieldAt, length, List.foldl_map]

theorem readPayload_audio {bytes : List Byte} {channels total pos : Nat} (length : bytes.length = 32)
    (packet : (s.feed f).parse.packet = some ⟨k, .audio channels total pos⟩) :
    readPayload f bytes s = s.setFeed f { s.feed f with
      parse := { (s.feed f).parse with packet := some ⟨k, .audio channels total (max pos (min total (pos + 8)))⟩ },
      frame := { (s.feed f).frame with
        peaks := metered channels total pos (fun i => fieldAt bytes (4 * i) 4) 8 (s.feed f).frame.peaks } } := by
  simp only [readPayload, packet]
  rw [State.modFeed, words32_eq_map_fieldAt, length, List.foldl_map, audioWords_metered packet]

/-! ### Picture words -/

/-- The feed with its packet's place moved, a picture word below H added for a frame with browse (R22, R38). -/
def Feed.wordMoved (k : PacketKind) (line pos word : Nat) (r : FrameRecord) (d : Disposition) (x : Feed) : Feed :=
  { x with
    parse := { x.parse with packet := some ⟨k, d⟩ },
    reducer := if line < r.height ∧ r.reason = .none then
        x.reducer.addWord x.params.decimation r.width line pos (word % 1024) else x.reducer }

/-- A picture word: a pad word, a word within a line, or a line's last. -/
theorem pictureWord_eq {line remaining pos word : Nat} {r : FrameRecord}
    (packet : (s.feed f).parse.packet = some ⟨k, .lines line remaining pos⟩) (opened : (s.feed f).openRecord = some r) :
    pictureWord f s word = if remaining = 0 then s
      else if pos + 1 = 2 * r.width then completeLine f line r (s.setFeed f
        ((s.feed f).wordMoved k line pos word r (.lines (line + 1) (remaining - 1) 0)))
      else s.setFeed f ((s.feed f).wordMoved k line pos word r (.lines line remaining (pos + 1))) := by
  have moved : ∀ d, Feed.onParse (setDisposition d) (if line < r.height ∧ r.reason = .none then
        { s.feed f with reducer := (s.feed f).reducer.addWord (s.feed f).params.decimation r.width line pos (word % 1024) }
      else s.feed f) = (s.feed f).wordMoved k line pos word r d := fun d => by
    unfold Feed.wordMoved
    split <;> simp only [Feed.onParse, setDisposition, packet] <;> rfl
  unfold pictureWord
  simp only [packet, opened, moved]

end

/-- Settles O35: the LINES, AUDIO and FILL headers, stray packets, and the payload walk. -/
theorem payloadHeaders : Obligations.PayloadHeaders := by
  unfold Obligations.PayloadHeaders
  refine ⟨?_, ?_, ?_, ?_⟩
  · intro s e rest h queue length meets read f x y becomes
    have openFrame : y.frame.openFrame = x.frame.openFrame := by rw [gapNoted_frame]
    refine ⟨?_, fun kind untracked => ?_, fun kind shut => ?_, fun kind => ?_⟩
    · intro r kind framing outcome
      obtain ⟨tracked, opened, front, records, others, -⟩ := framing
      have newest : Newest front r y.frame.records := ⟨records, opened, others⟩
      let longer : FrameRecord := { r with frameLength := min 4294967295 (r.frameLength + 32) }
      let grown : Feed := { y with frame := { y.frame with records := front ++ [longer] } }
      have grows : y.lengthened 32 = grown := lengthened_newest 32 tracked newest
      have gives : payloadOutcome h longer = outcome := rfl
      have tested : handPayload (payloadTest h) grown = ({ y with frame := { y.frame with
          records := y.frame.records.dropLast ++ [longer.masked outcome.2] } }, outcome.1) := by
        rw [handPayload_newest (payloadTest h) (x := grown) tracked ⟨rfl, opened, others⟩, payloadTest_eq, gives, records,
          List.dropLast_concat]
      have step := header_payload queue length meets read kind (y := y) rfl
      rw [grows, tested] at step
      exact step
    · have skipped : handPayload (payloadTest h) y = (y, .skip) := by
        simp only [handPayload, openFrame.trans untracked]
      have step := header_payload queue length meets read kind (y := y) rfl
      rw [lengthened_untracked 32 (by rw [openFrame, untracked]; nofun), skipped] at step
      exact step
    · have payload : h.kind = .lines ∨ h.kind = .audio → exec .parseTapEntry s = .next
          { s.setFeed f ((countStray y).pastHeader e.addr h .stray) with tapQ := rest } := by
        intro kind
        have counted : handPayload (payloadTest h) y = (countStray y, .stray) := by
          simp only [handPayload, openFrame.trans shut]
        have step := header_payload queue length meets read kind (y := y) rfl
        rwa [lengthened_untracked 32 (by rw [openFrame, shut]; nofun), counted] at step
      obtain lines | audio | close := kind
      · exact payload (.inl lines)
      · exact payload (.inr audio)
      · exact header_blind queue length meets read (g := countStray) (fun _ _ => rfl) (fun _ => rfl)
          (fun u same => handClose_stray e.stamp e.addr close (same.trans shut)) rfl
    · exact header_blind queue length meets read (parseBlind_lengthened 32) (lengthened_params 32)
        (fun u _ => handFill e.stamp e.addr u kind) rfl
  · intro s e rest queue length state cursor clean f x
    have met := payload_met queue length state cursor clean
    let u : State := { s with tapQ := rest }
    refine ⟨fun skipped => ?_, fun k line remaining pos packet => ?_, ?_⟩
    · rw [met, readPayload_skipped (s := u) e.data skipped]
      rfl
    · rw [met, readPayload_lines (s := u) length packet]
    · intro k channels total pos packet sample
      rw [met, readPayload_audio (s := u) length packet, State.setFeed_modFeed]
      rfl
  · intro s f k line remaining pos word r packet opened x moved z received
    have eq := pictureWord_eq (word := word) packet opened
    refine ⟨fun pad => ?_, fun more within => ?_, fun more last beyond => ?_, fun more last below reason => ?_,
      fun more last below reason => ?_⟩
    · rw [eq, if_pos pad]
    · rw [eq, if_neg more, if_neg within]
      rfl
    · rw [eq, if_neg more, if_pos last, completeLine, if_neg (Nat.not_lt.mpr beyond)]
      rfl
    · rw [eq, if_neg more, if_pos last, completeLine, if_pos below]
      dsimp only
      rw [if_neg reason, State.setFeed_modFeed]
      rfl
    · rw [eq, if_neg more, if_pos last, completeLine, if_pos below]
      dsimp only
      rw [if_pos reason, State.setFeed_modFeed]
      rfl
  · intro peaks channel word k hk v magnitude
    rw [meter_get, magnitude_signed24]

end Sys2Proof.Machine
end
